-- ==== Sys2Proof/Word.lean ====
section
/-! DEFINITION. The two bit-vector widths of the host's bus: a byte of the register space and a 32-bit word
(a command word, a control register). The big registers are not bit vectors: their width is a build parameter and the spec
computes on them as integers (R13, R20). -/

namespace Sys2Proof

/-- One byte of the register space (R62). -/
abbrev Byte := BitVec 8

/-- One 32-bit word: a command (R90) or a control register (R29). -/
abbrev Word := BitVec 32

end Sys2Proof
end

