-- ==== Sys2Proof/Syntax.lean ====
section
/-! DEFINITION. The command set: one constructor per row of the opcode table (R97). -/

namespace Sys2Proof

/-- The five general registers, in the order of their select numbers (R21). -/
inductive GReg where
  | A | B | N | R | S
  deriving DecidableEq, Repr

/-- A command of R97. The operands of a Z-format command are implicit (R94). -/
inductive Instr where
  /-- R120 -/
  | nop
  /-- R121 -/
  | mov (rd rs : GReg)
  /-- R122, `imm` the unsigned integer of bits 31:16 (R93) -/
  | ldi (rd : GReg) (imm : Nat)
  /-- R130 -/
  | add
  /-- R131 -/
  | sub
  /-- R132 -/
  | mul
  /-- R133 -/
  | div
  /-- R134 -/
  | mod
  /-- R135 -/
  | cmp
  /-- R136 -/
  | gcd
  /-- R150 -/
  | mulmod
  /-- R151 -/
  | montmul
  /-- R155 -/
  | modexp
  /-- R171 -/
  | bezout
  /-- R173 -/
  | modinv
  /-- R185 -/
  | primetest
  deriving DecidableEq, Repr

end Sys2Proof
end

