-- ==== Sys2Proof/WellFormed.lean ====
section
/-! DEFINITION. Which terms of `Instr` are commands a word can carry. -/

namespace Sys2Proof

/-- The immediate of LDI is 16 bits (R93). Register selects are constructors, so a select above 4 cannot be written. -/
def Instr.wellFormed : Instr → Bool
  | .ldi _ imm => decide (imm < 2 ^ 16)
  | .nop | .mov _ _ | .add | .sub | .mul | .div | .mod | .cmp | .gcd | .mulmod | .montmul | .modexp | .bezout
  | .modinv | .primetest => true

/-- The check as a proposition. -/
abbrev Instr.WellFormed (i : Instr) : Prop := i.wellFormed = true

end Sys2Proof
end

