-- ==== Sys2Proof/Decode.lean ====
section
/-! DEFINITION. From a command word to a command or a named reason why the word is illegal (R91, R92, R97, R100), and
back (R98). -/

namespace Sys2Proof

/-- Why a word is illegal: the four cases of R100, each select apart. -/
inductive Illegal where
  /-- (a) the opcode byte is none of the 16 -/
  | badOpcode
  /-- (b), (c), (d) a field the format does not use is not 0 -/
  | unusedFieldSet
  /-- (c), (d) RD above 4 -/
  | badRd
  /-- (c) RS above 4 -/
  | badRs
  deriving DecidableEq, Repr

/-- OPC, bits 7:0 (R91). -/
def fieldOpc (w : Word) : BitVec 8 := w.extractLsb' 0 8

/-- RD, bits 11:8 (R91). -/
def fieldRd (w : Word) : BitVec 4 := w.extractLsb' 8 4

/-- RS, bits 15:12 (R91). -/
def fieldRs (w : Word) : BitVec 4 := w.extractLsb' 12 4

/-- IMM16, bits 31:16 (R91). -/
def fieldImm (w : Word) : BitVec 16 := w.extractLsb' 16 16

/-- The register a select names, none for 5 to 15 (R21, R92). -/
def selectReg (k : BitVec 4) : Option GReg :=
  if k = 0 then some .A else if k = 1 then some .B else if k = 2 then some .N else if k = 3 then some .R
  else if k = 4 then some .S else none

/-- The select number of a register (R21). -/
def GReg.select : GReg → BitVec 4
  | .A => 0
  | .B => 1
  | .N => 2
  | .R => 3
  | .S => 4

/-- The Z format: bits 31:8 are 0 (R92). -/
def decodeZ (w : Word) (i : Instr) : Except Illegal Instr :=
  if fieldRd w = 0 ∧ fieldRs w = 0 ∧ fieldImm w = 0 then .ok i else .error .unusedFieldSet

/-- The M format: bits 31:16 are 0 (R92). -/
def decodeM (w : Word) : Except Illegal Instr :=
  if fieldImm w = 0 then
    match selectReg (fieldRd w), selectReg (fieldRs w) with
    | some rd, some rs => .ok (.mov rd rs)
    | none, _ => .error .badRd
    | some _, none => .error .badRs
  else .error .unusedFieldSet

/-- The I format: bits 15:12 are 0 (R92). -/
def decodeI (w : Word) : Except Illegal Instr :=
  if fieldRs w = 0 then
    match selectReg (fieldRd w) with
    | some rd => .ok (.ldi rd (fieldImm w).toNat)
    | none => .error .badRd
  else .error .unusedFieldSet

/-- The command a word is, by the opcode map of R97, or why it is illegal (R100). -/
def decode (w : Word) : Except Illegal Instr :=
  match (fieldOpc w).toNat with
  | 0x00 => decodeZ w .nop
  | 0x01 => decodeM w
  | 0x02 => decodeI w
  | 0x10 => decodeZ w .add
  | 0x11 => decodeZ w .sub
  | 0x12 => decodeZ w .mul
  | 0x13 => decodeZ w .div
  | 0x14 => decodeZ w .mod
  | 0x15 => decodeZ w .cmp
  | 0x16 => decodeZ w .gcd
  | 0x20 => decodeZ w .mulmod
  | 0x21 => decodeZ w .montmul
  | 0x22 => decodeZ w .modexp
  | 0x30 => decodeZ w .bezout
  | 0x31 => decodeZ w .modinv
  | 0x40 => decodeZ w .primetest
  | _ => .error .badOpcode

/-- The word four bytes spell, the byte at the lowest offset first and most significant (R61, R62). -/
def wordOfBytes (b3 b2 b1 b0 : Byte) : Word := b3 ++ b2 ++ b1 ++ b0

/-- The four bytes of a word, most significant first (R61). -/
def bytesOfWord (w : Word) : List Byte :=
  [w.extractLsb' 24 8, w.extractLsb' 16 8, w.extractLsb' 8 8, w.extractLsb' 0 8]

/-- A word from its four fields (R91). -/
def assembleFields (imm : BitVec 16) (rs rd : BitVec 4) (opc : BitVec 8) : Word := imm ++ rs ++ rd ++ opc

/-- The opcode of a command (R97). -/
def Instr.opcode : Instr → BitVec 8
  | .nop => 0x00
  | .mov _ _ => 0x01
  | .ldi _ _ => 0x02
  | .add => 0x10
  | .sub => 0x11
  | .mul => 0x12
  | .div => 0x13
  | .mod => 0x14
  | .cmp => 0x15
  | .gcd => 0x16
  | .mulmod => 0x20
  | .montmul => 0x21
  | .modexp => 0x22
  | .bezout => 0x30
  | .modinv => 0x31
  | .primetest => 0x40

/-- The word of a command: the layouts of R98. -/
def encode (i : Instr) : Word :=
  match i with
  | .mov rd rs => assembleFields 0 rs.select rd.select i.opcode
  | .ldi rd imm => assembleFields (BitVec.ofNat 16 imm) 0 rd.select i.opcode
  | .nop | .add | .sub | .mul | .div | .mod | .cmp | .gcd | .mulmod | .montmul | .modexp | .bezout | .modinv
  | .primetest => assembleFields 0 0 0 i.opcode

/-- One row of R97's table: `word AND mask = bits`, and which selects must name a register. -/
structure OpcodeRow where
  bits : Word
  mask : Word
  rdNamesReg : Bool
  rsNamesReg : Bool
  deriving DecidableEq, Repr

/-- The table of R97, row by row. -/
def opcodeTable : List OpcodeRow :=
  [⟨0x00000000, 0xFFFFFFFF, false, false⟩, ⟨0x00000001, 0xFFFF00FF, true, true⟩, ⟨0x00000002, 0x0000F0FF, true, false⟩,
   ⟨0x00000010, 0xFFFFFFFF, false, false⟩, ⟨0x00000011, 0xFFFFFFFF, false, false⟩, ⟨0x00000012, 0xFFFFFFFF, false, false⟩,
   ⟨0x00000013, 0xFFFFFFFF, false, false⟩, ⟨0x00000014, 0xFFFFFFFF, false, false⟩, ⟨0x00000015, 0xFFFFFFFF, false, false⟩,
   ⟨0x00000016, 0xFFFFFFFF, false, false⟩] ++
  [⟨0x00000020, 0xFFFFFFFF, false, false⟩, ⟨0x00000021, 0xFFFFFFFF, false, false⟩, ⟨0x00000022, 0xFFFFFFFF, false, false⟩,
   ⟨0x00000030, 0xFFFFFFFF, false, false⟩, ⟨0x00000031, 0xFFFFFFFF, false, false⟩, ⟨0x00000040, 0xFFFFFFFF, false, false⟩]

/-- A word matches a row, its select constraint included (R97). -/
def OpcodeRow.matchesWord (r : OpcodeRow) (w : Word) : Bool :=
  (w &&& r.mask == r.bits) && (!r.rdNamesReg || decide ((w >>> 8).toNat % 16 ≤ 4)) &&
    (!r.rsNamesReg || decide ((w >>> 12).toNat % 16 ≤ 4))

/-- `legal(w)` of R100. -/
def legalWord (w : Word) : Bool := opcodeTable.any (·.matchesWord w)

/-- The word that an instruction's bits `w`, numbered as spec/opcode_table.json numbers them, stand for: a command is
one 32-bit word (R90), and bits above `nbits` are 0. -/
def tableWord (nbits w : Nat) : Option Word :=
  if nbits ≤ 32 ∧ w < 2 ^ nbits then some (BitVec.ofNat 32 w) else none

/-- The command the decoder reads from the bits `w` of an opcode-table row of `nbits` bits. -/
def decodeTableWord (nbits w : Nat) : Option Instr :=
  match tableWord nbits w with
  | none => none
  | some word =>
    match decode word with
    | .ok i => some i
    | .error _ => none

end Sys2Proof
end

