-- ==== Sys2Proof/Config.lean ====
section
/-! DEFINITION. What a build or a platform fixes (R5 to R9), the open parameters' constraints (`Params.Legal`), and the
values the spec leaves open as constants without a body. -/

namespace Sys2Proof

/-- The build and platform parameters (table of open parameters of 92_eei_decisions.md). The model carries them in its
state because a step's type has no other argument. No step changes them. -/
structure Params where
  /-- `W`, the operand width in bits (R5). -/
  width : Nat
  /-- `SMALL_PRIMES`, the trial-division table (R6). -/
  smallPrimes : List Nat
  /-- `BASE`, the bus address of offset 0 (R8). -/
  base : Nat
  deriving DecidableEq, Repr

/-- `WB = W / 8`, the bytes of a `W`-bit register (R5). -/
def Params.bytes (p : Params) : Nat := p.width / 8

/-- `2^W`, the bound of the type `BigUInt(W)` (R20). -/
def Params.bound (p : Params) : Nat := 2 ^ p.width

/-- `2^(2W)`, the bound of a `2W`-bit encoding (R27). -/
def Params.wideBound (p : Params) : Nat := 2 ^ (2 * p.width)

/-- What R5, R6 and R8 require of the parameters of a block that can be built. -/
structure Params.Legal (p : Params) : Prop where
  width_dvd : 8 ∣ p.width
  width_ge : 8 ≤ p.width
  width_le : p.width ≤ 4096
  primes_prime : ∀ q ∈ p.smallPrimes, q.Prime
  primes_increasing : p.smallPrimes.Pairwise (· < ·)
  two_mem : 2 ∈ p.smallPrimes
  three_mem : 3 ∈ p.smallPrimes
  primes_lt : ∀ q ∈ p.smallPrimes, q < 2 ^ p.width
  primes_length : p.smallPrimes.length < 2 ^ 16
  base_dvd : 0x2000 ∣ p.base

/-- The default table of R6: the 54 primes below 256. -/
def defaultPrimes : List Nat :=
  [2, 3, 5, 7, 11, 13, 17, 19, 23, 29, 31, 37, 41, 43, 47, 53, 59, 61, 67, 71, 73, 79, 83, 89, 97, 101, 103, 107, 109,
   113, 127] ++
  [131, 137, 139, 149, 151, 157, 163, 167, 173, 179, 181, 191, 193, 197, 199, 211, 223, 227, 229, 233, 239, 241, 251]

/-- DESIGN CHOICE (log entry 1): the parameters of `State.reset` are the test vectors' defaults, `W = 32` and the default
table (92_eei_decisions.md, open parameters), and `BASE = 0`. Every statement quantifies over the parameters instead. -/
def Params.default : Params := { width := 32, smallPrimes := defaultPrimes, base := 0 }

namespace Config

/-- `ID_VALUE` (R9). -/
def idValue : Word := 0x52534131

/-- `ROUNDS_DEFAULT` (R7). -/
def roundsDefault : Word := 100

/-- The size in bytes of the register space (R39). -/
def spaceSize : Nat := 0x2000

/-- The offset at which the windows start, and the size of one window (R65). -/
def windowSize : Nat := 0x400

/-- The randomness input beyond the values the environment has given in advance (R10): entry `pos` of the infinite
sequence. No law constrains it. -/
opaque rngTail : Nat → Nat

/-- What the big registers hold after a reset (R51): by the free-value counter at the reset and the register's window
number. -/
opaque resetContents : Nat → Nat → Nat

/-- A byte read from a window while BUSY is 1 (R271): by the free-value counter and the byte's place in the access. -/
opaque busyByte : Nat → Nat → Byte

/-- How many of its draws a command in flight has made (R260, R271): by the free-value counter. Its uses reduce it to
the range from none of the draws to all of them. -/
opaque drawsMade : Nat → Nat

end Config

end Sys2Proof
end

