-- ==== Sys2Proof/Machine/State.lean ====
section
/-! DEFINITION. The machine's state as plain data: the registers of the block (R21, R27, R29), the parameters of the build
(R5, R6, R8), and the environment's side of the interface (the randomness input R10, the host's pending accesses and the
data its reads returned R11, R70). -/

namespace Sys2Proof.Machine

/-- The error causes of R231; code 0, no error, is the absence of one. -/
inductive CmdError where
  | illegalCmd | divZero | modZero | overflow | underflow | modEven | notInvertible | range
  deriving DecidableEq, Repr

/-- The STATUS register by its fields (R33). Its reserved bits read 0 and its writes only clear, so its 32-bit view is
computed (`Status.word`). -/
structure Status where
  busy : Bool
  done : Bool
  errs : Bool
  busyViol : Bool
  z : Bool
  eq : Bool
  lt : Bool
  gt : Bool
  prime : Bool
  /-- ERR: `none` is code 0. -/
  err : Option CmdError
  deriving DecidableEq, Repr

/-- The CTRL register by its stored fields (R32). SRST reads 0 and stores nothing. -/
structure Ctrl where
  ieDone : Bool
  ieErr : Bool
  deriving DecidableEq, Repr

/-- The sizes of a host access (R62, R63): 1 or 4 bytes. -/
inductive Size where
  | byte | word
  deriving DecidableEq, Repr

/-- The data of a host access, with its size. -/
inductive BusData where
  | byte (v : Byte)
  | word (v : Word)
  deriving DecidableEq, Repr

/-- One host access, at a bus address (R62, R63; the offset is the address less `BASE`, R8). -/
inductive Access where
  | read (addr : Nat) (size : Size)
  | write (addr : Nat) (data : BusData)
  deriving DecidableEq, Repr

/-- What moves in one step (R11): one access of the host, the engine's turn, or the reset input (R260). -/
inductive Event where
  | access (a : Access)
  | engine
  | reset
  deriving DecidableEq, Repr

/-- Everything the spec gives the block, and the environment's side of its interface. A big register is the integer it
holds (R13, R20), SX and SY by their `2W`-bit encoding (R27). That each fits its width is the invariant `State.Inv`. -/
structure State where
  params : Params
  regA : Nat
  regB : Nat
  regN : Nat
  regR : Nat
  regS : Nat
  regSX : Nat
  regSY : Nat
  ctrl : Ctrl
  status : Status
  /-- CMD: the latched command word (R35). -/
  cmd : Word
  rounds : Word
  rngcnt : Word
  /-- `rng_pos` (R10, R40), kept by the environment. -/
  rngPos : Nat
  /-- The first entries of the randomness input, where the environment gives them (R10); the rest is `Config.rngTail`. -/
  rngGiven : List Nat
  /-- What moves next, first to last: the host's accesses in its program order, the engine's turns, resets. Past its end
  every step is the engine's turn. -/
  events : List Event
  /-- The data the host's reads returned, newest first. They are the host's, not the block's. -/
  reads : List BusData
  /-- The model's own: how many free values have been taken. -/
  freeCtr : Nat
  deriving DecidableEq, Repr

/-- Why the machine stops with a fault. No command raises one. -/
inductive Fault where
  /-- A host access that is not wholly inside `BASE .. BASE + 0x1FFF` (R62, R64, R65): raised by the bus side of the host
  port. Safe: the spec gives the block no behaviour there. -/
  | notThisBlock
  deriving DecidableEq, Repr

/-- Why a step has no meaning. -/
inductive Refusal where
  /-- An instruction without a meaning yet: raised by exec's refused arms, of which there are none. Safe. -/
  | notModelled (mnemonic : String)
  deriving DecidableEq, Repr

/-- CTRL after reset (R50). -/
def Ctrl.reset : Ctrl := { ieDone := false, ieErr := false }

/-- STATUS after reset: every field 0 (R50). -/
def Status.reset : Status :=
  { busy := false, done := false, errs := false, busyViol := false, z := false, eq := false, lt := false, gt := false,
    prime := false, err := none }

/-- The state right after the reset event (R50, R51, R261) of a block built with `p`, at the start of the randomness
input `given`, with nothing scheduled. The big registers hold arbitrary values of their types: DESIGN CHOICE (log entry 2),
the free values `Config.resetContents` with counter 0. -/
def State.resetWith (p : Params) (given : List Nat) : State where
  params := p
  regA := Config.resetContents 0 0 % p.bound
  regB := Config.resetContents 0 1 % p.bound
  regN := Config.resetContents 0 2 % p.bound
  regR := Config.resetContents 0 3 % p.bound
  regS := Config.resetContents 0 4 % p.bound
  regSX := Config.resetContents 0 5 % p.wideBound
  regSY := Config.resetContents 0 6 % p.wideBound
  ctrl := Ctrl.reset
  status := Status.reset
  cmd := 0
  rounds := Config.roundsDefault
  rngcnt := 0
  rngPos := 0
  rngGiven := given
  events := []
  reads := []
  freeCtr := 1

/-- The machine right after reset (R261), with the default parameters. -/
def State.reset : State := State.resetWith Params.default []

end Sys2Proof.Machine
end

