-- ==== Sys2Proof/Machine/Operands.lean ====
section
/-! DEFINITION. Reading and writing registers, by the primitives of R12 and R14: `G[x]`, the signed registers, the bytes
of a register (R60), a draw from the randomness input (R10). -/

namespace Sys2Proof.Machine

/-- `2^W` for this machine. -/
def State.bound (s : State) : Nat := s.params.bound

/-- `G[x]` (R14). -/
def State.g (s : State) : GReg → Nat
  | .A => s.regA
  | .B => s.regB
  | .N => s.regN
  | .R => s.regR
  | .S => s.regS

/-- `G[x] <- v` (R14). -/
def State.setG (s : State) (x : GReg) (v : Nat) : State :=
  match x with
  | .A => { s with regA := v }
  | .B => { s with regB := v }
  | .N => { s with regN := v }
  | .R => { s with regR := v }
  | .S => { s with regS := v }

/-- `tc_k(z)`, the `k`-bit two's-complement encoding of `z` (R12). -/
def tc (k : Nat) (z : Int) : Nat := (z % (2 ^ k : Nat)).toNat

/-- `sval_k(v)`, the integer that `v` encodes in `k` bits (R12). -/
def sval (k v : Nat) : Int := if v < 2 ^ (k - 1) then (v : Int) else (v : Int) - (2 ^ k : Nat)

/-- `SX <- x` and `SY <- y` (R14, R27). -/
def State.setSigned (s : State) (x y : Int) : State :=
  { s with regSX := tc (2 * s.params.width) x, regSY := tc (2 * s.params.width) y }

/-- Bit `i` of `v` (R12). -/
def bitAt (v i : Nat) : Bool := v / 2 ^ i % 2 == 1

/-- Byte `k` of an `n`-byte big-endian register holding `v` (R60), for `k < n`. -/
def byteOf (n v k : Nat) : Byte := BitVec.ofNat 8 (v / 256 ^ (n - 1 - k))

/-- An `n`-byte big-endian register holding `v` with its byte `k` replaced by `b` (R66), for `k < n`. -/
def replaceByte (n v k : Nat) (b : Byte) : Nat :=
  v - (byteOf n v k).toNat * 256 ^ (n - 1 - k) + b.toNat * 256 ^ (n - 1 - k)

/-- Entry `pos` of the randomness input, a `W`-bit value (R10). -/
def State.rngAt (s : State) (pos : Nat) : Nat :=
  (match s.rngGiven[pos]? with
   | some w => w
   | none => Config.rngTail pos) % s.bound

/-- `n` draws: `rng_pos` advances (R10) and RNGCNT counts them modulo `2^32` (R38). -/
def State.takeDraws (s : State) (n : Nat) : State :=
  { s with rngPos := s.rngPos + n, rngcnt := s.rngcnt + BitVec.ofNat 32 n }

end Sys2Proof.Machine
end

