-- ==== Sys2Proof/Machine/Flags.lean ====
section
/-! DEFINITION. The flags (R28), the 32-bit views of STATUS, CTRL and CONFIG (R31 to R33), the error codes (R231) and the
interrupt output (R238). -/

namespace Sys2Proof.Machine

/-- `Z <- (v = 0)`, `v` the value written to R (R28). -/
def State.flagZ (s : State) (v : Nat) : State := { s with status := { s.status with z := v == 0 } }

/-- EQ, LT and GT of an unsigned comparison (R28, R135). -/
def State.flagCompare (s : State) (a b : Nat) : State :=
  { s with status := { s.status with eq := a == b, lt := decide (a < b), gt := decide (b < a) } }

/-- `PRIME <- result` (R28, R185). -/
def State.flagPrime (s : State) (result : Bool) : State := { s with status := { s.status with prime := result } }

/-- The result `v` in R, with its flag: `G[R] <- v; Z <- (v = 0)` (R14, R28). -/
def State.writeResult (s : State) (v : Nat) : State := (s.setG .R v).flagZ v

/-- The codes of R231. -/
def CmdError.code : CmdError → BitVec 4
  | .illegalCmd => 1
  | .divZero => 2
  | .modZero => 3
  | .overflow => 4
  | .underflow => 5
  | .modEven => 6
  | .notInvertible => 7
  | .range => 8

/-- The field STATUS.ERR: 0 is no error (R231, R33). -/
def errField : Option CmdError → BitVec 4
  | none => 0
  | some e => e.code

/-- What a read of STATUS returns (R33). -/
def Status.word (f : Status) : Word :=
  0#12 ++ errField f.err ++ 0#7 ++ BitVec.ofBool f.prime ++ BitVec.ofBool f.gt ++ BitVec.ofBool f.lt ++ BitVec.ofBool f.eq ++
    BitVec.ofBool f.z ++ BitVec.ofBool f.busyViol ++ BitVec.ofBool f.errs ++ BitVec.ofBool f.done ++ BitVec.ofBool f.busy

/-- STATUS after a write of `v`: bits 1, 2 and 3 clear the sticky bits (R33). -/
def Status.clearedBy (f : Status) (v : Word) : Status :=
  { f with
    done := f.done && !v.getLsbD 1
    errs := f.errs && !v.getLsbD 2
    busyViol := f.busyViol && !v.getLsbD 3 }

/-- What a read of CTRL returns (R32). -/
def Ctrl.word (c : Ctrl) : Word := 0#30 ++ BitVec.ofBool c.ieErr ++ BitVec.ofBool c.ieDone

/-- CTRL after a write of `v` without SRST (R32). -/
def Ctrl.ofWord (v : Word) : Ctrl := { ieDone := v.getLsbD 0, ieErr := v.getLsbD 1 }

/-- CONFIG: NSP above WIDTH (R31). -/
def configWord (p : Params) : Word := BitVec.ofNat 16 p.smallPrimes.length ++ BitVec.ofNat 16 p.width

/-- The interrupt output (R238). -/
def State.irq (s : State) : Bool := (s.ctrl.ieDone && s.status.done) || (s.ctrl.ieErr && s.status.errs)

end Sys2Proof.Machine
end

