-- ==== Sys2Proof/Machine/Ops.lean ====
section
/-! DEFINITION. How a command ends: the completion every command shares (R96) and the one way an error ends one (R233). -/

namespace Sys2Proof.Machine

/-- The completion step's last part (R96): ERR is overwritten, ERRS is set by an error, BUSY falls, DONE rises. -/
def State.complete (s : State) (err : Option CmdError) : State :=
  { s with status := { s.status with err := err, errs := s.status.errs || err.isSome, busy := false, done := true } }

/-- `raise e` (R233), the block's whole error entry: nothing but the completion's record. There is no saved state, no
vector and no return (R233, R240); the block goes on with the next command (R234). -/
def State.raise (s : State) (e : CmdError) : State := s.complete (some e)

/-- How a command's pseudocode ends from `s` (R96): with its effect, or with an error and none of it. -/
def State.conclude (s : State) : Except CmdError State → State
  | .ok t => t.complete none
  | .error e => s.raise e

end Sys2Proof.Machine
end

