-- ==== Sys2Proof/Machine/Move.lean ====
section
/-! DEFINITION. Data movement (40_move.md). -/

namespace Sys2Proof.Machine

/-- NOP (R120). -/
def execNop (s : State) : Host.Outcome State Fault Refusal := .next (s.conclude (.ok s))

/-- MOV rd, rs (R121). -/
def execMov (rd rs : GReg) (s : State) : Host.Outcome State Fault Refusal :=
  .next (s.conclude (.ok (s.setG rd (s.g rs))))

/-- LDI rd, #imm (R122). -/
def execLdi (rd : GReg) (imm : Nat) (s : State) : Host.Outcome State Fault Refusal :=
  .next (s.conclude (if s.bound ≤ imm then .error .overflow else .ok (s.setG rd imm)))

end Sys2Proof.Machine
end

