-- ==== Sys2Proof/Machine/Arith.lean ====
section
/-! DEFINITION. Plain arithmetic and comparison (41_arith.md), on unbounded integers (R13). -/

namespace Sys2Proof.Machine

/-- The loop of R137 with as many iterations at most as `fuel`. -/
def gcdLoop : Nat → Nat → Nat → Nat
  | 0, a, _ => a
  | fuel + 1, a, b => if b = 0 then a else gcdLoop fuel b (a % b)

/-- `gcd(a, b)` (R137). `b` strictly decreases, so `b` iterations are enough. -/
def euclidGcd (a b : Nat) : Nat := gcdLoop b a b

/-- ADD (R130). -/
def execAdd (s : State) : Host.Outcome State Fault Refusal :=
  .next (s.conclude (
    if s.bound ≤ s.regA + s.regB then .error .overflow else .ok (s.writeResult (s.regA + s.regB))))

/-- SUB (R131). -/
def execSub (s : State) : Host.Outcome State Fault Refusal :=
  .next (s.conclude (
    if s.regA < s.regB then .error .underflow else .ok (s.writeResult (s.regA - s.regB))))

/-- MUL (R132). -/
def execMul (s : State) : Host.Outcome State Fault Refusal :=
  .next (s.conclude (
    if s.bound ≤ s.regA * s.regB then .error .overflow else .ok (s.writeResult (s.regA * s.regB))))

/-- DIV (R133): the quotient in R, the remainder in S. -/
def execDiv (s : State) : Host.Outcome State Fault Refusal :=
  .next (s.conclude (
    if s.regB = 0 then .error .divZero else .ok ((s.writeResult (s.regA / s.regB)).setG .S (s.regA % s.regB))))

/-- MOD (R134). -/
def execMod (s : State) : Host.Outcome State Fault Refusal :=
  .next (s.conclude (
    if s.regN = 0 then .error .modZero else .ok (s.writeResult (s.regA % s.regN))))

/-- CMP (R135). -/
def execCmp (s : State) : Host.Outcome State Fault Refusal :=
  .next (s.conclude (.ok (s.flagCompare s.regA s.regB)))

/-- GCD (R136). -/
def execGcd (s : State) : Host.Outcome State Fault Refusal :=
  .next (s.conclude (.ok (s.writeResult (euclidGcd s.regA s.regB))))

end Sys2Proof.Machine
end

