-- ==== Sys2Proof/Machine/Euclid.lean ====
section
/-! DEFINITION. Extended Euclid and the modular inverse (43_euclid.md). -/

namespace Sys2Proof.Machine

/-- The recursion of R170 to a depth of at most `fuel`. -/
def bezoutRec : Nat → Nat → Nat → Int × Int
  | 0, _, _ => (0, 1)
  | fuel + 1, a, b =>
    if a = 0 then (0, 1)
    else
      match bezoutRec fuel (b % a) a with
      | (s, t) => (t - (b / a : Nat) * s, s)

/-- `bezout(a, b)` (R170). The first argument strictly decreases, so a depth of `a` is enough. -/
def bezout (a b : Nat) : Int × Int := bezoutRec a a b

/-- `bezout(a, n).first mod n`, in `[0, n)` for `n > 0` (R173, R13). -/
def modInverse (a n : Nat) : Nat := ((bezout a n).1 % (n : Int)).toNat

/-- BEZOUT (R171). -/
def execBezout (s : State) : Host.Outcome State Fault Refusal :=
  .next (s.conclude (.ok (
    (s.setSigned (bezout s.regA s.regB).1 (bezout s.regA s.regB).2).writeResult (euclidGcd s.regA s.regB))))

/-- MODINV (R173). -/
def execModinv (s : State) : Host.Outcome State Fault Refusal :=
  .next (s.conclude (
    if s.regN = 0 then .error .modZero
    else if euclidGcd s.regA s.regN ≠ 1 then .error .notInvertible
    else .ok ((s.setSigned (bezout s.regA s.regN).1 (bezout s.regA s.regN).2).writeResult (modInverse s.regA s.regN))))

end Sys2Proof.Machine
end

