-- ==== Sys2Proof/Machine/Modular.lean ====
section
/-! DEFINITION. Modular arithmetic (42_modular.md). -/

namespace Sys2Proof.Machine

/-- The loop of R155 over the exponent's bits below `i`, from the most significant. -/
def powLoop (base exponent n : Nat) : Nat → Nat → Nat
  | 0, acc => acc
  | i + 1, acc =>
    powLoop base exponent n i
      (if bitAt exponent i then acc * acc % n * base % n else acc * acc % n)

/-- The value of R155 for a `w`-bit exponent. -/
def powMod (w base exponent n : Nat) : Nat := powLoop (base % n) exponent n w (1 % n)

/-- The value of R151, by its formula: `RINV` is the inverse of `2^W` modulo `n`. -/
def montMul (w a b n : Nat) : Nat := a * b * modInverse (2 ^ w) n % n

/-- MULMOD (R150). -/
def execMulmod (s : State) : Host.Outcome State Fault Refusal :=
  .next (s.conclude (
    if s.regN = 0 then .error .modZero else .ok (s.writeResult (s.regA * s.regB % s.regN))))

/-- MONTMUL (R151), its checks in the order of R235. -/
def execMontmul (s : State) : Host.Outcome State Fault Refusal :=
  .next (s.conclude (
    if s.regN = 0 then .error .modZero
    else if s.regN % 2 = 0 then .error .modEven
    else if s.regN ≤ s.regA ∨ s.regN ≤ s.regB then .error .range
    else .ok (s.writeResult (montMul s.params.width s.regA s.regB s.regN))))

/-- MODEXP (R155). -/
def execModexp (s : State) : Host.Outcome State Fault Refusal :=
  .next (s.conclude (
    if s.regN = 0 then .error .modZero
    else .ok (s.writeResult (powMod s.params.width s.regA s.regB s.regN))))

end Sys2Proof.Machine
end

