-- ==== Sys2Proof/Machine/Primality.lean ====
section
/-! DEFINITION. The primality test (44_primality.md). -/

namespace Sys2Proof.Machine

/-- Stage (a) of R186: the verdict of the first table prime that decides `n` (R188), none if no prime does. -/
def trialDivision (n : Nat) : List Nat → Option Bool
  | [] => none
  | p :: rest => if n = p then some true else if n % p = 0 then some false else trialDivision n rest

/-- The loop of R186 that halves `d` while it is even and counts in `r`, at most `fuel` times. -/
def splitLoop : Nat → Nat → Nat → Nat × Nat
  | 0, d, r => (d, r)
  | fuel + 1, d, r => if d % 2 = 0 then splitLoop fuel (d / 2) (r + 1) else (d, r)

/-- `(d, r)` with `m = d * 2^r` and `d` odd, for `m > 0` (R186). -/
def splitPow2 (m : Nat) : Nat × Nat := splitLoop m m 0

/-- The inner loop of R186: whether one of `k` squarings of `x` gives `n - 1` (R193). -/
def squaresToMinusOne (n : Nat) : Nat → Nat → Bool
  | 0, _ => false
  | k + 1, x => if x * x % n = n - 1 then true else squaresToMinusOne n k (x * x % n)

/-- Whether the witness `a` passes for `n`, `n - 1 = d * 2^r` (R186). -/
def witnessPasses (w n d r a : Nat) : Bool :=
  if powMod w a d n = 1 ∨ powMod w a d n = n - 1 then true else squaresToMinusOne n (r - 1) (powMod w a d n)

/-- The witness of a draw (R190). -/
def witnessOf (n draw : Nat) : Nat := 2 + draw % (n - 3)

/-- Stage (b) of R186 with `k` rounds left and `used` draws made: the verdict and the draws made in all. `s` supplies the
randomness input. -/
def millerRabin (s : State) (n d r : Nat) : Nat → Nat → Bool × Nat
  | 0, used => (true, used)
  | k + 1, used =>
    if witnessPasses s.params.width n d r (witnessOf n (s.rngAt (s.rngPos + used))) then
      millerRabin s n d r k (used + 1)
    else (false, used + 1)

/-- `is_probable_prime(n, rounds)` (R186): the verdict and the draws made, in state `s`. -/
def isProbablePrime (s : State) (n rounds : Nat) : Bool × Nat :=
  if n < 2 then (false, 0)
  else
    match trialDivision n s.params.smallPrimes with
    | some verdict => (verdict, 0)
    | none => millerRabin s n (splitPow2 (n - 1)).1 (splitPow2 (n - 1)).2 rounds 0

/-- The verdict and the draws of a PRIMETEST in state `s` (R185). -/
def State.primeTest (s : State) : Bool × Nat := isProbablePrime s s.regN s.rounds.toNat

/-- PRIMETEST (R185). -/
def execPrimetest (s : State) : Host.Outcome State Fault Refusal :=
  .next (s.conclude (.ok (
    (((s.takeDraws s.primeTest.2).writeResult (if s.primeTest.1 then 1 else 0)).flagPrime s.primeTest.1))))

end Sys2Proof.Machine
end

