-- ==== Sys2Proof/Machine/Dispatch.lean ====
section
/-! DEFINITION. One arm per command: `exec i s` is the engine's completion of command `i` in state `s` (R96). -/

namespace Sys2Proof.Machine

def exec (i : Instr) (s : State) : Host.Outcome State Fault Refusal :=
  match i with
  | .nop => Sys2Proof.Machine.execNop s
  | .mov rd rs => Sys2Proof.Machine.execMov rd rs s
  | .ldi rd imm => Sys2Proof.Machine.execLdi rd imm s
  | .add => Sys2Proof.Machine.execAdd s
  | .sub => Sys2Proof.Machine.execSub s
  | .mul => Sys2Proof.Machine.execMul s
  | .div => Sys2Proof.Machine.execDiv s
  | .mod => Sys2Proof.Machine.execMod s
  | .cmp => Sys2Proof.Machine.execCmp s
  | .gcd => Sys2Proof.Machine.execGcd s
  | .mulmod => Sys2Proof.Machine.execMulmod s
  | .montmul => Sys2Proof.Machine.execMontmul s
  | .modexp => Sys2Proof.Machine.execModexp s
  | .bezout => Sys2Proof.Machine.execBezout s
  | .modinv => Sys2Proof.Machine.execModinv s
  | .primetest => Sys2Proof.Machine.execPrimetest s

end Sys2Proof.Machine
end

