-- ==== Sys2Proof/Machine/Reset.lean ====
section
/-! DEFINITION. The reset event (R260), which the reset input and the soft reset (R262) share. -/

namespace Sys2Proof.Machine

/-- The draws the command in flight makes in all: those of a PRIMETEST, none for any other word and none when idle. Its
operands cannot change while it is in flight (R24). -/
def State.drawsInFlight (s : State) : Nat :=
  if s.status.busy then
    match decode s.cmd with
    | .ok .primetest => s.primeTest.2
    | _ => 0
  else 0

/-- How many of those draws have been made by now: between none and all (R271), a free
value. -/
def State.drawsSoFar (s : State) : Nat :=
  if s.drawsInFlight = 0 then 0 else Config.drawsMade s.freeCtr % (s.drawsInFlight + 1)

/-- The reset event (R260): a command in flight is discarded, the draws it has made stay made, the control registers take
their reset values (R50) and the big registers arbitrary ones (R51). Of the environment nothing else changes (R52). -/
def State.resetEvent (s : State) : State :=
  { s with
    regA := Config.resetContents s.freeCtr 0 % s.params.bound
    regB := Config.resetContents s.freeCtr 1 % s.params.bound
    regN := Config.resetContents s.freeCtr 2 % s.params.bound
    regR := Config.resetContents s.freeCtr 3 % s.params.bound
    regS := Config.resetContents s.freeCtr 4 % s.params.bound
    regSX := Config.resetContents s.freeCtr 5 % s.params.wideBound
    regSY := Config.resetContents s.freeCtr 6 % s.params.wideBound
    ctrl := Ctrl.reset
    status := Status.reset
    cmd := 0
    rounds := Config.roundsDefault
    rngcnt := 0
    rngPos := s.rngPos + s.drawsSoFar
    freeCtr := s.freeCtr + 1 }

end Sys2Proof.Machine
end

