-- ==== Sys2Proof/Machine/HostPort.lean ====
section
/-! DEFINITION. The host's accesses to the register space (20_memory.md; busy rules R270, R271). An access is one
indivisible step (R70). -/

namespace Sys2Proof.Machine

/-- The control registers (R29). -/
inductive CReg where
  | id | config | ctrl | status | cmd | rounds | rngcnt
  deriving DecidableEq, Repr

/-- The offset of a control register (R29). -/
def CReg.offset : CReg → Nat
  | .id => 0x000
  | .config => 0x004
  | .ctrl => 0x008
  | .status => 0x00C
  | .cmd => 0x010
  | .rounds => 0x014
  | .rngcnt => 0x018

/-- The control register at an offset below 0x400, none at a reserved one (R29). -/
def cregAt (off : Nat) : Option CReg :=
  if off = 0x000 then some .id else if off = 0x004 then some .config else if off = 0x008 then some .ctrl
  else if off = 0x00C then some .status else if off = 0x010 then some .cmd else if off = 0x014 then some .rounds
  else if off = 0x018 then some .rngcnt else none

/-- The big registers that have a window (R65). -/
inductive BigReg where
  | gen (x : GReg)
  | sx
  | sy
  deriving DecidableEq, Repr

/-- The window start of a register (R65). -/
def BigReg.windowStart : BigReg → Nat
  | .gen .A => 0x0400
  | .gen .B => 0x0800
  | .gen .N => 0x0C00
  | .gen .R => 0x1000
  | .gen .S => 0x1400
  | .sx => 0x1800
  | .sy => 0x1C00

/-- The register whose window an offset from 0x400 to 0x1FFF is in (R65). -/
def windowAt (off : Nat) : BigReg :=
  if off < 0x0800 then .gen .A else if off < 0x0C00 then .gen .B else if off < 0x1000 then .gen .N
  else if off < 0x1400 then .gen .R else if off < 0x1800 then .gen .S else if off < 0x1C00 then .sx else .sy

/-- The value a big register holds, SX and SY by their encoding. -/
def State.big (s : State) : BigReg → Nat
  | .gen x => s.g x
  | .sx => s.regSX
  | .sy => s.regSY

/-- The bytes a big register has (R60). -/
def registerBytes (p : Params) : BigReg → Nat
  | .gen _ => p.bytes
  | .sx | .sy => 2 * p.bytes

/-- What the idle block shows at window offset `off` (R66, R67): the register's byte, or 0 above it. -/
def State.windowByte (s : State) (off : Nat) : Byte :=
  if off - (windowAt off).windowStart < registerBytes s.params (windowAt off) then
    byteOf (registerBytes s.params (windowAt off)) (s.big (windowAt off)) (off - (windowAt off).windowStart)
  else 0

/-- What a read of the window byte at `off`, the access's byte `i`, returns: while BUSY a free byte (R271). -/
def State.byteSeen (s : State) (off i : Nat) : Byte :=
  if s.status.busy then Config.busyByte s.freeCtr i else s.windowByte off

/-- What a read of a control register returns (R30 to R38). While a PRIMETEST is in flight RNGCNT shows a count between
the one at issue and the one at completion (R271). -/
def State.cregWord (s : State) : CReg → Word
  | .id => Config.idValue
  | .config => configWord s.params
  | .ctrl => s.ctrl.word
  | .status => s.status.word
  | .cmd => s.cmd
  | .rounds => s.rounds
  | .rngcnt => s.rngcnt + BitVec.ofNat 32 s.drawsSoFar

/-- A bad access (R64): a byte of the control registers, a word that is not aligned. -/
def badAccess (off : Nat) : Size → Bool
  | .byte => decide (off < Config.windowSize)
  | .word => off % 4 != 0

/-- What `HostRead(off, n)` returns (R62, R64). -/
def State.readValue (s : State) (off : Nat) (size : Size) : BusData :=
  match size with
  | .byte => .byte (if badAccess off .byte then 0 else s.byteSeen off 0)
  | .word => .word (
      if badAccess off .word then 0
      else if off < Config.windowSize then
        match cregAt off with
        | some r => s.cregWord r
        | none => 0
      else wordOfBytes (s.byteSeen off 0) (s.byteSeen (off + 1) 1) (s.byteSeen (off + 2) 2) (s.byteSeen (off + 3) 3))

/-- `HostRead(off, n)` (R62): the value goes to the host. No register of the block changes (R70); while BUSY the read may
have taken a free value. -/
def State.hostRead (s : State) (off : Nat) (size : Size) : State :=
  { s with reads := s.readValue off size :: s.reads, freeCtr := if s.status.busy then s.freeCtr + 1 else s.freeCtr }

/-- A write that is ignored because BUSY is 1 (R270). -/
def State.busyViolation (s : State) : State := { s with status := { s.status with busyViol := true } }

/-- The issue of a command word (R95): a CMD write with BUSY 0. -/
def State.issue (s : State) (w : Word) : State :=
  { s with cmd := w, status := { s.status with busy := true, done := false } }

/-- A word written to a control register (R30 to R38, R262, R270). -/
def State.writeCreg (s : State) (r : CReg) (v : Word) : State :=
  match r with
  | .id | .config | .rngcnt => s
  | .ctrl => if v.getLsbD 31 then s.resetEvent else { s with ctrl := Ctrl.ofWord v }
  | .status => { s with status := s.status.clearedBy v }
  | .cmd => if s.status.busy then s.busyViolation else s.issue v
  | .rounds => if s.status.busy then s.busyViolation else { s with rounds := v }

/-- One byte written to place `k` of the window of general register `x`, idle (R66): ignored above the register. -/
def State.putByte (s : State) (x : GReg) (k : Nat) (b : Byte) : State :=
  if k < s.params.bytes then s.setG x (replaceByte s.params.bytes (s.g x) k b) else s

/-- Successive bytes written from place `k` on (R63). -/
def State.putBytes (s : State) (x : GReg) (k : Nat) : List Byte → State
  | [] => s
  | b :: rest => (s.putByte x k b).putBytes x (k + 1) rest

/-- Bytes written from window offset `off` on (R66, R67, R270). -/
def State.writeWindow (s : State) (off : Nat) (bytes : List Byte) : State :=
  match windowAt off with
  | .gen x => if s.status.busy then s.busyViolation else s.putBytes x (off - (BigReg.gen x).windowStart) bytes
  | .sx | .sy => s

/-- `HostWrite(off, n, v)` (R63, R64): a bad access is ignored. -/
def State.hostWrite (s : State) (off : Nat) (data : BusData) : State :=
  match data with
  | .byte b => if badAccess off .byte then s else s.writeWindow off [b]
  | .word v =>
    if badAccess off .word then s
    else if off < Config.windowSize then
      match cregAt off with
      | some r => s.writeCreg r v
      | none => s
    else s.writeWindow off (bytesOfWord v)

/-- The bytes of an access (R62, R63). -/
def Size.bytes : Size → Nat
  | .byte => 1
  | .word => 4

/-- The size of the data of a write. -/
def BusData.size : BusData → Size
  | .byte _ => .byte
  | .word _ => .word

/-- The offset of an access at a bus address, none if it is not wholly inside the register space (R8, R62, R64, R65). -/
def busOffset (p : Params) (addr : Nat) (size : Size) : Option Nat :=
  if p.base ≤ addr ∧ addr + size.bytes ≤ p.base + Config.spaceSize then some (addr - p.base) else none

/-- One host access (R70). -/
def State.hostAccess (s : State) : Access → Host.Outcome State Fault Refusal
  | .read addr size =>
    match busOffset s.params addr size with
    | some off => .next (s.hostRead off size)
    | none => .fault .notThisBlock
  | .write addr data =>
    match busOffset s.params addr data.size with
    | some off => .next (s.hostWrite off data)
    | none => .fault .notThisBlock

end Sys2Proof.Machine
end

