-- ==== Sys2Proof/Machine/Engine.lean ====
section
/-! DEFINITION. The agents' steps (R11): the engine's one step (R96) and what each scheduled event does. -/

namespace Sys2Proof.Machine

/-- The engine's turn (R96). With BUSY 1 it completes the latched word: an illegal one ends with ILLEGAL_CMD, decided from
the word alone (R235). With BUSY 0 the engine has no step and the block keeps its state (R249). -/
def State.engineTurn (s : State) : Host.Outcome State Fault Refusal :=
  if s.status.busy then
    match decode s.cmd with
    | .ok i => exec i s
    | .error _ => .next (s.raise .illegalCmd)
  else .next s

/-- What a scheduled event does. -/
def State.runEvent (s : State) : Event → Host.Outcome State Fault Refusal
  | .access a => s.hostAccess a
  | .engine => s.engineTurn
  | .reset => .next s.resetEvent

end Sys2Proof.Machine
end

