-- ==== Sys2Proof/Machine/Step.lean ====
section
/-! DEFINITION. One step of the machine, and how a word is placed where the next step executes it. -/

namespace Sys2Proof.Machine

/-- One step: the first scheduled event, or past the schedule's end the engine's turn, so that a command in flight
completes (R96, R280). -/
def step (s : State) : Host.Outcome State Fault Refusal :=
  match s.events with
  | [] => s.engineTurn
  | e :: rest => ({ s with events := rest } : State).runEvent e

/-- `s` with the word of the bits `w` issued (R95) and the engine's turn next (log entry 3). There is no instruction
memory (R25): the word a step executes is the one in CMD. -/
def State.withFetchWord (s : State) (nbits w : Nat) : State :=
  match tableWord nbits w with
  | some word => { s.issue word with events := .engine :: s.events }
  | none => s

end Sys2Proof.Machine
end

