-- ==== Sys2Proof/Machine/Directives.lean ====
section
/-! DEFINITION. The host directives of R104, as the schedules of events they stand for. A schedule fixes how often a WAIT
polls before the engine's completion; any number is possible (R280). -/

namespace Sys2Proof.Machine

/-- `HostWrite(off, n, v)` as an event (R14). -/
def hostWriteAt (p : Params) (off : Nat) (data : BusData) : Event := .access (.write (p.base + off) data)

/-- `HostRead(off, n)` as an event (R14). -/
def hostReadAt (p : Params) (off : Nat) (size : Size) : Event := .access (.read (p.base + off) size)

/-- `WR x, v` from byte `k` on, with `n` bytes left (R104). -/
def wrFrom (p : Params) (x : GReg) (v : Nat) : Nat → Nat → List Event
  | _, 0 => []
  | k, n + 1 => hostWriteAt p ((BigReg.gen x).windowStart + k) (.byte (byteOf p.bytes v k)) :: wrFrom p x v (k + 1) n

/-- `WR x, v` (R104): the `WB` bytes of `v`. -/
def wrDirective (p : Params) (x : GReg) (v : Nat) : List Event := wrFrom p x v 0 p.bytes

/-- `RD x` from byte `k` on, with `n` bytes left (R104). -/
def rdFrom (p : Params) (x : BigReg) : Nat → Nat → List Event
  | _, 0 => []
  | k, n + 1 => hostReadAt p (x.windowStart + k) .byte :: rdFrom p x (k + 1) n

/-- The accesses of `RD x` (R104): every byte of the register. -/
def rdDirective (p : Params) (x : BigReg) : List Event := rdFrom p x 0 (registerBytes p x)

/-- The integer a big-endian byte string spells (R60, R211). -/
def spell : List Byte → Nat
  | [] => 0
  | b :: rest => b.toNat * 256 ^ rest.length + spell rest

/-- The bytes of the byte reads in a list of returned data. -/
def bytesRead : List BusData → List Byte
  | [] => []
  | .byte b :: rest => b :: bytesRead rest
  | .word _ :: rest => bytesRead rest

/-- The value of an `RD` of `n` bytes that has just ended (R104). -/
def State.rdValue (s : State) (n : Nat) : Nat := spell (bytesRead (s.reads.take n)).reverse

/-- `WRC reg, v` (R104). -/
def wrcDirective (p : Params) (r : CReg) (v : Word) : Event := hostWriteAt p r.offset (.word v)

/-- `RDC reg` (R104). -/
def rdcDirective (p : Params) (r : CReg) : Event := hostReadAt p r.offset .word

/-- `WAIT` (R104): `polls` reads of STATUS that find BUSY, the engine's completion, the read that finds BUSY 0. -/
def waitDirective (p : Params) (polls : Nat) : List Event :=
  List.replicate polls (rdcDirective p .status) ++ [.engine, rdcDirective p .status]

/-- A program line that is a command: the write of its word to CMD, then WAIT (R104). -/
def commandLine (p : Params) (i : Instr) (polls : Nat) : List Event :=
  wrcDirective p .cmd (encode i) :: waitDirective p polls

/-- The pseudo-command `CLR rd` (R104). -/
def clr (rd : GReg) : Instr := .ldi rd 0

end Sys2Proof.Machine
end

