-- ==== Sys2Proof/Machine/Assembler.lean ====
section
/-! DEFINITION. The assembler syntax of R103: one command a line, `;` starts a comment. -/

namespace Sys2Proof.Machine

/-- A finished token before the tokens that follow it; an empty one is none. -/
def closeToken (current : List Char) (rest : List (List Char)) : List (List Char) :=
  if current = [] then rest else current.reverse :: rest

/-- The tokens of a line: words and commas, up to a comment. `current` is the word being read, reversed. -/
def tokensFrom (current : List Char) : List Char → List (List Char)
  | [] => closeToken current []
  | c :: rest =>
    if c = ';' then closeToken current []
    else if c = ' ' ∨ c = '\t' then closeToken current (tokensFrom [] rest)
    else if c = ',' then closeToken current ([','] :: tokensFrom [] rest)
    else tokensFrom (c :: current) rest

/-- The value of a digit in a base. -/
def digitValue (base : Nat) (c : Char) : Option Nat :=
  let v := if 48 ≤ c.toNat ∧ c.toNat ≤ 57 then c.toNat - 48
    else if 65 ≤ c.toNat ∧ c.toNat ≤ 70 then c.toNat - 55
    else if 97 ≤ c.toNat ∧ c.toNat ≤ 102 then c.toNat - 87
    else base
  if v < base then some v else none

/-- The value of a digit string continued from `acc`. -/
def digitsFrom (base acc : Nat) : List Char → Option Nat
  | [] => some acc
  | c :: rest => (digitValue base c).bind fun v => digitsFrom base (acc * base + v) rest

/-- A decimal or `0x` hexadecimal numeral, at least one digit. -/
def numeral : List Char → Option Nat
  | '0' :: 'x' :: c :: rest => digitsFrom 16 0 (c :: rest)
  | c :: rest => digitsFrom 10 0 (c :: rest)
  | [] => none

/-- `#imm`, in 0 to 65535. -/
def immediate : List Char → Option Nat
  | '#' :: rest => (numeral rest).filter (· < 2 ^ 16)
  | _ => none

/-- A register's name. -/
def registerName : List Char → Option GReg
  | ['A'] => some .A
  | ['B'] => some .B
  | ['N'] => some .N
  | ['R'] => some .R
  | ['S'] => some .S
  | _ => none

/-- The Z-format mnemonics. -/
def bareMnemonics : List (List Char × Instr) :=
  [(['N', 'O', 'P'], .nop), (['A', 'D', 'D'], .add), (['S', 'U', 'B'], .sub), (['M', 'U', 'L'], .mul),
   (['D', 'I', 'V'], .div), (['M', 'O', 'D'], .mod), (['C', 'M', 'P'], .cmp), (['G', 'C', 'D'], .gcd),
   (['M', 'U', 'L', 'M', 'O', 'D'], .mulmod), (['M', 'O', 'N', 'T', 'M', 'U', 'L'], .montmul),
   (['M', 'O', 'D', 'E', 'X', 'P'], .modexp), (['B', 'E', 'Z', 'O', 'U', 'T'], .bezout),
   (['M', 'O', 'D', 'I', 'N', 'V'], .modinv), (['P', 'R', 'I', 'M', 'E', 'T', 'E', 'S', 'T'], .primetest)]

/-- The command of a line's tokens, `CLR` of R104 among them. -/
def commandOfTokens : List (List Char) → Option Instr
  | [m] => bareMnemonics.lookup m
  | [m, rd] => if m = ['C', 'L', 'R'] then (registerName rd).map clr else none
  | [m, rd, [','], x] =>
    if m = ['M', 'O', 'V'] then
      match registerName rd, registerName x with
      | some d, some r => some (.mov d r)
      | _, _ => none
    else if m = ['L', 'D', 'I'] then
      match registerName rd, immediate x with
      | some d, some v => some (.ldi d v)
      | _, _ => none
    else none
  | _ => none

/-- The word of a line (R103), none for a line that is no command. -/
def assembleLine (line : List Char) : Option Word := (commandOfTokens (tokensFrom [] line)).map encode

end Sys2Proof.Machine
end

