-- ==== Sys2Proof/Safety.lean ====
section
/-! DEFINITION. What a state of a block that can be built looks like: `State.Inv`. -/

namespace Sys2Proof.Machine

/-- The invariant of the machine: legal parameters (R5, R6, R8), every big register a value of its type (R20, R27), DONE 0
while BUSY is 1 (R33), at most one of the comparison flags set (R28, R34). -/
structure State.Inv (s : State) : Prop where
  legal : s.params.Legal
  general_lt : ∀ x, s.g x < 2 ^ s.params.width
  sx_lt : s.regSX < 2 ^ (2 * s.params.width)
  sy_lt : s.regSY < 2 ^ (2 * s.params.width)
  busy_not_done : s.status.busy = true → s.status.done = false
  eq_lt : (s.status.eq && s.status.lt) = false
  eq_gt : (s.status.eq && s.status.gt) = false
  lt_gt : (s.status.lt && s.status.gt) = false

end Sys2Proof.Machine
end

