-- ==== Sys2Proof/Certificates/Slice0/Obligations.lean ====
section
/-! DEFINITION. The statements about the machine. Their vocabulary stands first, under `Sys2Proof.Claims`. -/

namespace Sys2Proof.Claims

open Sys2Proof.Machine

/-- The registers a command writes: the second column of R22's table. -/
def writes : Instr → List BigReg
  | .nop | .cmp => []
  | .mov rd _ => [.gen rd]
  | .ldi rd _ => [.gen rd]
  | .add | .sub | .mul | .gcd | .mod | .mulmod | .montmul | .modexp | .primetest => [.gen .R]
  | .div => [.gen .R, .gen .S]
  | .bezout | .modinv => [.gen .R, .sx, .sy]

/-- The registers a command reads: the first column of R22's table. PRIMETEST reads ROUNDS too. -/
def reads : Instr → List GReg
  | .nop => []
  | .mov _ rs => [rs]
  | .ldi _ _ => []
  | .add | .sub | .mul | .gcd | .div | .cmp | .bezout => [.A, .B]
  | .mod | .modinv => [.A, .N]
  | .mulmod | .montmul | .modexp => [.A, .B, .N]
  | .primetest => [.N]

/-- The commands that write Z: its row of R28's table. -/
def writesZ : Instr → Bool
  | .add | .sub | .mul | .div | .mod | .gcd | .mulmod | .montmul | .modexp | .bezout | .modinv | .primetest => true
  | .nop | .mov _ _ | .ldi _ _ | .cmp => false

/-- Every big register but those listed holds what it held. -/
def SameBig (s t : State) (written : List BigReg) : Prop := ∀ x, x ∉ written → t.big x = s.big x

/-- What no command changes: the parameters, CTRL, CMD, ROUNDS, BUSYVIOL and the environment's and the host's side. -/
def SameControl (s t : State) : Prop :=
  t.params = s.params ∧ t.ctrl = s.ctrl ∧ t.cmd = s.cmd ∧ t.rounds = s.rounds ∧
    t.status.busyViol = s.status.busyViol ∧ t.rngGiven = s.rngGiven ∧ t.events = s.events ∧ t.reads = s.reads ∧
    t.freeCtr = s.freeCtr

/-- No draw was made. -/
def SameDraws (s t : State) : Prop := t.rngPos = s.rngPos ∧ t.rngcnt = s.rngcnt

/-- The flags other than Z are unchanged. -/
def SameFlagsButZ (s t : State) : Prop :=
  t.status.eq = s.status.eq ∧ t.status.lt = s.status.lt ∧ t.status.gt = s.status.gt ∧ t.status.prime = s.status.prime

/-- The five flags are unchanged. -/
def SameFlags (s t : State) : Prop := t.status.z = s.status.z ∧ SameFlagsButZ s t

/-- The record of a completion with error `err` (R96). -/
def Ended (s t : State) (err : Option CmdError) : Prop :=
  t.status.err = err ∧ t.status.errs = (s.status.errs || err.isSome) ∧ t.status.busy = false ∧ t.status.done = true

/-- A completion without error that wrote no big register but those listed and made no draw. -/
def Succeeds (s t : State) (written : List BigReg) : Prop :=
  SameBig s t written ∧ SameControl s t ∧ SameDraws s t ∧ Ended s t none

/-- `t` is `s` after a command that ended in error `e` (R233): no register, no flag and no draw differs. -/
def ErrsFrom (s t : State) (e : CmdError) : Prop :=
  SameBig s t [] ∧ SameControl s t ∧ SameDraws s t ∧ SameFlags s t ∧ Ended s t (some e)

/-- The command ends in error `e` and nothing else changes. -/
def EndsInError (i : Instr) (s : State) (e : CmdError) : Prop := ∃ t, exec i s = .next t ∧ ErrsFrom s t e

/-- The command ends without error with `v` in R, Z telling whether `v` is 0, and nothing else changed. -/
def GivesResult (i : Instr) (s : State) (v : Nat) : Prop :=
  ∃ t, exec i s = .next t ∧ Succeeds s t [.gen .R] ∧ t.regR = v ∧ (t.status.z = true ↔ v = 0) ∧ SameFlagsButZ s t

/-- PRIMETEST ends with `verdict` after `used` draws (R185). -/
def TestEnds (s : State) (verdict : Bool) (used : Nat) : Prop :=
  ∃ t, exec .primetest s = .next t ∧ SameBig s t [.gen .R] ∧ SameControl s t ∧ Ended s t none ∧
    t.regR = (if verdict then 1 else 0) ∧ t.status.prime = verdict ∧ t.status.z = !verdict ∧
    t.status.eq = s.status.eq ∧ t.status.lt = s.status.lt ∧ t.status.gt = s.status.gt ∧
    t.rngPos = s.rngPos + used ∧ t.rngcnt = s.rngcnt + BitVec.ofNat 32 used

/-- No table prime divides N and N is not below 2: the candidate reaches stage (b) of R186. -/
def Survives (s : State) : Prop := 2 ≤ s.regN ∧ ∀ q ∈ s.params.smallPrimes, s.regN % q ≠ 0

/-- Round `k` of a PRIMETEST in `s` passes, where `N - 1 = d * 2^r` with `d` odd: its witness is `a`, of draw number `k`
(R190), and `a^d` is 1 or one of `a^d, a^(2d), .., a^(2^(r-1) d)` is -1, modulo N (R186). -/
def RoundPasses (s : State) (d r k : Nat) : Prop :=
  (2 + s.rngAt (s.rngPos + k) % (s.regN - 3)) ^ d % s.regN = 1 ∨
    ∃ j, j < r ∧ (2 + s.rngAt (s.rngPos + k) % (s.regN - 3)) ^ (d * 2 ^ j) % s.regN = s.regN - 1

/-- The schedule starts with a host write of the word `v` at offset `off`. -/
def NextIsWordWrite (s : State) (off : Nat) (v : Word) : Prop :=
  ∃ rest, s.events = .access (.write (s.params.base + off) (.word v)) :: rest

/-- The schedule starts with a reset: the reset input or a soft reset (R260, R262). -/
def NextIsReset (s : State) : Prop :=
  (∃ rest, s.events = .reset :: rest) ∨ ∃ v : Word, v.getLsbD 31 = true ∧ NextIsWordWrite s 0x008 v

/-- A host access that is no soft reset. -/
def Harmless (p : Params) : Event → Prop
  | .access (.write addr (.word v)) => ¬ (addr = p.base + 0x008 ∧ v.getLsbD 31 = true)
  | .access _ => True
  | .engine | .reset => False

end Sys2Proof.Claims

open Sys2Proof Sys2Proof.Machine Sys2Proof.Claims

/-! ### Encoding (30_encoding.md) -/

/-- Decoding the word of a well-formed command gives it back, with every operand (R98, R100). -/
def Obligations.DecodeOfEncode : Prop := ∀ i : Instr, i.WellFormed → decode (encode i) = .ok i

/-- A legal word is the word of the command it decodes to, and that command is well formed: no bit of a word is dropped. -/
def Obligations.EncodeOfDecode : Prop := ∀ (w : Word) (i : Instr), decode w = .ok i → i.WellFormed ∧ encode i = w

/-- R97: a word is a command exactly if it matches the command's row, select constraint included. -/
def Obligations.CommandsAreTheTableRows : Prop :=
  (∀ (w : Word) (i : Instr), decode w = .ok i →
    ∃ r ∈ opcodeTable, r.bits = i.opcode.zeroExtend 32 ∧ r.matchesWord w = true) ∧
  (∀ (w : Word), ∀ r ∈ opcodeTable, r.matchesWord w = true →
    ∃ i, decode w = .ok i ∧ i.opcode.zeroExtend 32 = r.bits)

/-- R100: legality is matching one row; the illegal words are the cases (a) to (d); an illegal word in flight ends with
ILLEGAL_CMD and changes nothing else. -/
def Obligations.IllegalWords : Prop :=
  (∀ w : Word, (∃ i, decode w = .ok i) ↔ (opcodeTable.filter (·.matchesWord w)).length = 1) ∧
  (∀ w : Word, (¬ ∃ i, decode w = .ok i) ↔
    (fieldOpc w ∉ [0x00, 0x01, 0x02, 0x10, 0x11, 0x12, 0x13, 0x14, 0x15, 0x16, 0x20, 0x21, 0x22, 0x30, 0x31, 0x40]) ∨
    (fieldOpc w ∈ [0x00, 0x10, 0x11, 0x12, 0x13, 0x14, 0x15, 0x16, 0x20, 0x21, 0x22, 0x30, 0x31, 0x40] ∧ w >>> 8 ≠ 0) ∨
    (fieldOpc w = 0x01 ∧ (fieldImm w ≠ 0 ∨ 4 < (fieldRd w).toNat ∨ 4 < (fieldRs w).toNat)) ∨
    (fieldOpc w = 0x02 ∧ (fieldRs w ≠ 0 ∨ 4 < (fieldRd w).toNat))) ∧
  (∀ s : State, s.status.busy = true → (¬ ∃ i, decode s.cmd = .ok i) →
    ∃ t, s.engineTurn = .next t ∧ ErrsFrom s t .illegalCmd)

/-- R99: the worked encodings. -/
def Obligations.WorkedEncodings : Prop :=
  ([(0x00000000, .nop), (0x00003001, .mov .A .R), (0x00003201, .mov .N .R), (0x00004101, .mov .B .S),
    (0x00410002, .ldi .A 65), (0x00110102, .ldi .B 17), (0x0CA10202, .ldi .N 3233), (0x00000302, .ldi .R 0),
    (0xFFFF0402, .ldi .S 65535), (0x00000010, .add), (0x00000022, .modexp), (0x00000031, .modinv),
    (0x00000040, .primetest)] : List (Word × Instr)).all
      (fun p => decide (encode p.2 = p.1) && (match decode p.1 with | .ok i => decide (i = p.2) | .error _ => false)) = true

/-! ### Steps (R11, R96) -/

/-- R96: at the engine's turn, with a legal word in flight, a step is the meaning of the decoded command. That a schedule
says whose turn it is, that a step moves it on, and that the turn is the engine's with nothing scheduled is the model's
choice (log entry 5). -/
def Obligations.StepRunsTheDecodedCommand : Prop :=
  ∀ (s : State) (i : Instr), s.status.busy = true → decode s.cmd = .ok i →
    (s.events = [] → step s = exec i s) ∧
    (∀ rest, s.events = .engine :: rest → step s = exec i { s with events := rest })

/-- A word placed by `withFetchWord` is what the next step executes, whatever is scheduled after it. -/
def Obligations.PlacedWordRunsNext : Prop :=
  ∀ (s : State) (w : Nat) (i : Instr), w < 2 ^ 32 → decode (BitVec.ofNat 32 w) = .ok i →
    step (s.withFetchWord 32 w) = exec i (s.issue (BitVec.ofNat 32 w))

/-- R96, R277: the engine's step. With BUSY 1 it always exists; it records the outcome, and an error writes nothing else.
With BUSY 0 the engine has no step: that its turn then changes nothing is the model's choice (log entry 5). Every command
completes, from every state. The premise is that the randomness input always answers (R278), which the model's does (log
entry 4). -/
def Obligations.EngineStepCompletes : Prop :=
  (∀ s : State, s.status.busy = true → ∃ t err, s.engineTurn = .next t ∧ Ended s t err ∧
    (∀ e, err = some e → ErrsFrom s t e) ∧ ((¬ ∃ i, decode s.cmd = .ok i) → err = some .illegalCmd) ∧
    (∀ i, decode s.cmd = .ok i → exec i s = .next t)) ∧
  (∀ s : State, s.status.busy = false → s.engineTurn = .next s) ∧
  (∀ (i : Instr) (s : State), ∃ t err, exec i s = .next t ∧ Ended s t err)

/-- A scheduled host access inside the register space is the access at its offset; any other is a fault (R8, R62, R64). -/
def Obligations.HostAccessStep : Prop :=
  ∀ (s : State) (rest : List Event),
    (∀ off size, off + size.bytes ≤ 0x2000 → s.events = .access (.read (s.params.base + off) size) :: rest →
      step s = .next (({ s with events := rest } : State).hostRead off size)) ∧
    (∀ off data, off + data.size.bytes ≤ 0x2000 → s.events = .access (.write (s.params.base + off) data) :: rest →
      step s = .next (({ s with events := rest } : State).hostWrite off data)) ∧
    (∀ addr size, (addr < s.params.base ∨ s.params.base + 0x2000 < addr + size.bytes) →
      s.events = .access (.read addr size) :: rest → step s = .fault .notThisBlock) ∧
    (∀ addr data, (addr < s.params.base ∨ s.params.base + 0x2000 < addr + data.size.bytes) →
      s.events = .access (.write addr data) :: rest → step s = .fault .notThisBlock)

/-- R104, R95, R96: a program line that is a command. From an idle block, the CMD write and the WAIT after it, with any
number of polls that find BUSY, leave what the command's meaning leaves, and the last poll reads the status it left. The
schedule that fixes the polls and the engine's turn is the model's choice (log entry 5), and that the run ends has the
premise that the randomness input always answers (R278, log entry 4). -/
def Obligations.CommandLineRuns : Prop :=
  ∀ (s : State) (i : Instr) (polls : Nat) (rest : List Event), i.WellFormed → s.status.busy = false →
    s.events = commandLine s.params i polls ++ rest →
    ∃ t u, exec i (s.issue (encode i)) = .next u ∧ Sys2Proof.core.run (polls + 3) s = .next t ∧ SameBig u t [] ∧
      t.status = u.status ∧ t.ctrl = s.ctrl ∧ t.cmd = encode i ∧ t.rounds = s.rounds ∧ SameDraws u t ∧ t.events = rest ∧
      t.reads = .word u.status.word ::
        (List.replicate polls (.word { s.status with busy := true, done := false }.word) ++ s.reads)

/-! ### Data movement (40_move.md) -/

/-- R120: NOP completes and writes nothing; it overwrites ERR and keeps ERRS. Its word with a higher bit set is illegal. -/
def Obligations.NopResult : Prop :=
  (∀ w : Word, decode w = .ok .nop ↔ w = 0x00000000) ∧
  (∀ w : Word, fieldOpc w = 0x00 → w ≠ 0x00000000 → ¬ ∃ i, decode w = .ok i) ∧
  (∀ s : State, s.status.busy = false → (s.hostWrite 0x010 (.word 0x00000000)).status.busy = true) ∧
  (∀ s : State, ∃ t, exec .nop s = .next t ∧ Succeeds s t [] ∧ SameFlags s t)

/-- R121: MOV copies a register, also onto itself, and writes no flag. -/
def Obligations.MovResult : Prop :=
  (∀ (w : Word) (rd rs : GReg), decode w = .ok (.mov rd rs) ↔
    fieldOpc w = 0x01 ∧ fieldRd w = rd.select ∧ fieldRs w = rs.select ∧ fieldImm w = 0) ∧
  (∀ w : Word, fieldOpc w = 0x01 → 4 < (fieldRd w).toNat ∨ 4 < (fieldRs w).toNat ∨ fieldImm w ≠ 0 →
    ¬ ∃ i, decode w = .ok i) ∧
  (∀ (s : State) (rd rs : GReg), ∃ t, exec (.mov rd rs) s = .next t ∧ Succeeds s t [.gen rd] ∧
    t.g rd = s.g rs ∧ SameFlags s t)

/-- R122: LDI loads its zero-extended immediate into all of the register and writes no flag; OVERFLOW if it does not fit,
which happens only for `W = 8`. -/
def Obligations.LdiResult : Prop :=
  (∀ (w : Word) (rd : GReg) (imm : Nat), decode w = .ok (.ldi rd imm) ↔
    fieldOpc w = 0x02 ∧ fieldRd w = rd.select ∧ fieldRs w = 0 ∧ (fieldImm w).toNat = imm) ∧
  (∀ w : Word, fieldOpc w = 0x02 → 4 < (fieldRd w).toNat ∨ fieldRs w ≠ 0 → ¬ ∃ i, decode w = .ok i) ∧
  (∀ (s : State) (rd : GReg) (imm : Nat), imm < 2 ^ s.params.width →
    ∃ t, exec (.ldi rd imm) s = .next t ∧ Succeeds s t [.gen rd] ∧ t.g rd = imm ∧ SameFlags s t) ∧
  (∀ (s : State) (rd : GReg) (imm : Nat), 2 ^ s.params.width ≤ imm → EndsInError (.ldi rd imm) s .overflow) ∧
  (∀ (p : Params) (imm : Nat), p.Legal → imm < 2 ^ 16 → 2 ^ p.width ≤ imm → p.width = 8 ∧ 256 ≤ imm)

/-! ### Plain arithmetic and comparison (41_arith.md) -/

/-- R130: ADD. -/
def Obligations.AddResult : Prop :=
  (∀ w : Word, decode w = .ok .add ↔ w = 0x00000010) ∧ ∀ s : State,
    (s.regA + s.regB < 2 ^ s.params.width → GivesResult .add s (s.regA + s.regB)) ∧
    (2 ^ s.params.width ≤ s.regA + s.regB → EndsInError .add s .overflow)

/-- R131: SUB. -/
def Obligations.SubResult : Prop :=
  (∀ w : Word, decode w = .ok .sub ↔ w = 0x00000011) ∧ ∀ s : State,
    (s.regB ≤ s.regA → GivesResult .sub s (s.regA - s.regB)) ∧ (s.regA < s.regB → EndsInError .sub s .underflow)

/-- R132: MUL. -/
def Obligations.MulResult : Prop :=
  (∀ w : Word, decode w = .ok .mul ↔ w = 0x00000012) ∧ ∀ s : State,
    (s.regA * s.regB < 2 ^ s.params.width → GivesResult .mul s (s.regA * s.regB)) ∧
    (2 ^ s.params.width ≤ s.regA * s.regB → EndsInError .mul s .overflow)

/-- R133: DIV gives the Euclidean quotient and remainder. -/
def Obligations.DivResult : Prop :=
  (∀ w : Word, decode w = .ok .div ↔ w = 0x00000013) ∧ ∀ s : State,
    (s.regB ≠ 0 → ∃ t q r, exec .div s = .next t ∧ s.regA = s.regB * q + r ∧ r < s.regB ∧ t.regR = q ∧ t.regS = r ∧
      (t.status.z = true ↔ q = 0) ∧ SameFlagsButZ s t ∧ Succeeds s t [.gen .R, .gen .S]) ∧
    (s.regB = 0 → EndsInError .div s .divZero)

/-- R134: MOD. -/
def Obligations.ModResult : Prop :=
  (∀ w : Word, decode w = .ok .mod ↔ w = 0x00000014) ∧ ∀ s : State,
    (s.regN ≠ 0 → GivesResult .mod s (s.regA % s.regN)) ∧ (s.regN = 0 → EndsInError .mod s .modZero)

/-- R135, R34: CMP sets EQ, LT and GT by the unsigned comparison, exactly one of them, and nothing else. -/
def Obligations.CmpResult : Prop :=
  (∀ w : Word, decode w = .ok .cmp ↔ w = 0x00000015) ∧ ∀ s : State, ∃ t, exec .cmp s = .next t ∧ Succeeds s t [] ∧
    (t.status.eq = true ↔ s.regA = s.regB) ∧ (t.status.lt = true ↔ s.regA < s.regB) ∧
    (t.status.gt = true ↔ s.regB < s.regA) ∧ t.status.z = s.status.z ∧ t.status.prime = s.status.prime ∧
    [t.status.eq, t.status.lt, t.status.gt].count true = 1

/-- R136, R137: GCD gives the greatest common divisor, 0 for two zeros, by Euclid's loop. -/
def Obligations.GcdResult : Prop :=
  (∀ w : Word, decode w = .ok .gcd ↔ w = 0x00000016) ∧
  (∀ s : State, GivesResult .gcd s (Nat.gcd s.regA s.regB)) ∧
  (∀ a b : Nat, euclidGcd a b = if b = 0 then a else euclidGcd b (a % b))

/-! ### Modular arithmetic (42_modular.md) -/

/-- R150: MULMOD reduces the full product. -/
def Obligations.MulmodResult : Prop :=
  (∀ w : Word, decode w = .ok .mulmod ↔ w = 0x00000020) ∧ ∀ s : State,
    (s.regN ≠ 0 → GivesResult .mulmod s (s.regA * s.regB % s.regN)) ∧
    (s.regN = 0 → EndsInError .mulmod s .modZero)

/-- R151: MONTMUL gives `A * B * RINV mod N`, the unique `r` below N with `r * 2^W` congruent to `A * B`; its errors in
their order. -/
def Obligations.MontmulResult : Prop :=
  (∀ w : Word, decode w = .ok .montmul ↔ w = 0x00000021) ∧ ∀ s : State,
    (s.regN % 2 = 1 → s.regA < s.regN → s.regB < s.regN →
      ∃ rinv v,
        (∀ r, r < s.regN → (2 ^ s.params.width * r % s.regN = 1 % s.regN ↔ r = rinv)) ∧ rinv < s.regN ∧
        v = s.regA * s.regB * rinv % s.regN ∧
        (∀ r, r < s.regN → (r * 2 ^ s.params.width % s.regN = s.regA * s.regB % s.regN ↔ r = v)) ∧
        GivesResult .montmul s v) ∧
    (s.regN = 0 → EndsInError .montmul s .modZero) ∧
    (s.regN ≠ 0 → s.regN % 2 = 0 → EndsInError .montmul s .modEven) ∧
    (s.regN % 2 = 1 → (s.regN ≤ s.regA ∨ s.regN ≤ s.regB) → EndsInError .montmul s .range)

/-- R155: MODEXP gives `(A ^ B) mod N`, for every N that is not 0. -/
def Obligations.ModexpResult : Prop :=
  (∀ w : Word, decode w = .ok .modexp ↔ w = 0x00000022) ∧ ∀ s : State, s.Inv →
    (s.regN ≠ 0 → GivesResult .modexp s (s.regA ^ s.regB % s.regN)) ∧
    (s.regN = 0 → EndsInError .modexp s .modZero)

/-- R153: MONTMUL by `2^(2W) mod N` enters Montgomery form, by 1 leaves it. -/
def Obligations.MontgomeryForm : Prop :=
  ∀ (s : State) (x : Nat), s.regN % 2 = 1 → x < s.regN → s.regA = x →
    (s.regB = 2 ^ (2 * s.params.width) % s.regN → GivesResult .montmul s (x * 2 ^ s.params.width % s.regN)) ∧
    (1 < s.regN → s.regB = 1 → ∃ v, GivesResult .montmul s v ∧ v * 2 ^ s.params.width % s.regN = x)

/-- R159: with N the product of two different primes and exponents inverse to each other modulo `(p - 1)(q - 1)`, MODEXP
by one undoes MODEXP by the other for every `m` below N. That the primes differ is a premise of the statement's own: the
spec does not require it (91_not_in_source.md N10). -/
def Obligations.RsaRoundTrip : Prop :=
  ∀ (s s' : State) (p q m : Nat), s.Inv → s'.Inv → p.Prime → q.Prime → p ≠ q → s.regN = p * q → s'.regN = p * q →
    s.regB * s'.regB % ((p - 1) * (q - 1)) = 1 % ((p - 1) * (q - 1)) → m < p * q → s.regA = m →
    s'.regA = m ^ s.regB % (p * q) →
    GivesResult .modexp s (m ^ s.regB % (p * q)) ∧ GivesResult .modexp s' m

/-! ### Extended Euclid (43_euclid.md) -/

/-- R170: the recursion of `bezout`, and the identity it guarantees. -/
def Obligations.BezoutRecursion : Prop :=
  (∀ b : Nat, bezout 0 b = (0, 1)) ∧
  (∀ a b : Nat, a ≠ 0 →
    bezout a b = ((bezout (b % a) a).2 - ((b / a : Nat) : Int) * (bezout (b % a) a).1, (bezout (b % a) a).1)) ∧
  (∀ a b : Nat, (a : Int) * (bezout a b).1 + (b : Int) * (bezout a b).2 = (Nat.gcd a b : Int))

/-- R172: the coefficients' bounds, so that their `2W`-bit encodings and every product of the recursion fit. -/
def Obligations.BezoutBounds : Prop :=
  (∀ a b : Nat, (bezout a b).1.natAbs ≤ max b 1 ∧ (bezout a b).2.natAbs ≤ max a 1) ∧
  (∀ w a b : Nat, 2 ≤ w → a < 2 ^ w → b < 2 ^ w →
    (bezout a b).1.natAbs < 2 ^ w ∧ (bezout a b).2.natAbs < 2 ^ w ∧
    -(2 : Int) ^ (2 * w - 1) ≤ (bezout a b).1 ∧ (bezout a b).1 < 2 ^ (2 * w - 1) ∧
    -(2 : Int) ^ (2 * w - 1) ≤ (bezout a b).2 ∧ (bezout a b).2 < 2 ^ (2 * w - 1) ∧
    (a ≠ 0 → (b / a) * (bezout (b % a) a).1.natAbs < 2 ^ (w + 1) ∧
      (b / a) * (bezout (b % a) a).1.natAbs < 2 ^ (2 * w - 1)))

/-- R171: BEZOUT writes the pair of the recursion in two's complement and the greatest common divisor. -/
def Obligations.BezoutResult : Prop :=
  (∀ w : Word, decode w = .ok .bezout ↔ w = 0x00000030) ∧ ∀ s : State, ∃ t, exec .bezout s = .next t ∧
    Succeeds s t [.gen .R, .sx, .sy] ∧
    (t.regSX : Int) = (bezout s.regA s.regB).1 % 2 ^ (2 * s.params.width) ∧
    (t.regSY : Int) = (bezout s.regA s.regB).2 % 2 ^ (2 * s.params.width) ∧
    t.regR = Nat.gcd s.regA s.regB ∧ (t.status.z = true ↔ s.regA = 0 ∧ s.regB = 0) ∧ SameFlagsButZ s t

/-- R173: MODINV: its errors in their order, and the inverse. -/
def Obligations.ModinvResult : Prop :=
  (∀ w : Word, decode w = .ok .modinv ↔ w = 0x00000031) ∧ ∀ s : State,
    (s.regN = 0 → EndsInError .modinv s .modZero) ∧
    (s.regN ≠ 0 → Nat.gcd s.regA s.regN ≠ 1 → EndsInError .modinv s .notInvertible) ∧
    (s.regN ≠ 0 → Nat.gcd s.regA s.regN = 1 → ∃ t, exec .modinv s = .next t ∧ Succeeds s t [.gen .R, .sx, .sy] ∧
      (t.regSX : Int) = (bezout s.regA s.regN).1 % 2 ^ (2 * s.params.width) ∧
      (t.regSY : Int) = (bezout s.regA s.regN).2 % 2 ^ (2 * s.params.width) ∧
      (t.regR : Int) = (bezout s.regA s.regN).1 % s.regN ∧
      (∀ r, r < s.regN → (s.regA * r % s.regN = 1 % s.regN ↔ r = t.regR)) ∧
      (t.status.z = true ↔ t.regR = 0) ∧ (t.regR = 0 ↔ s.regN = 1) ∧ SameFlagsButZ s t)

/-- R174: what BEZOUT and MODINV leave satisfies the properties the document states, seen through the registers. -/
def Obligations.EuclidPropertiesAtTheInterface : Prop :=
  ∀ s t : State, s.Inv →
    (exec .bezout s = .next t →
      (s.regA : Int) * sval (2 * s.params.width) t.regSX + (s.regB : Int) * sval (2 * s.params.width) t.regSY
        = (t.regR : Int)) ∧
    (exec .modinv s = .next t → t.status.err = none →
      s.regA * t.regR % s.regN = 1 % s.regN ∧ t.regR < s.regN)

/-! ### Primality (44_primality.md) -/

/-- R185 to R188, R191, R193: PRIMETEST. Stage (a) decides without a draw a candidate below 2, one in the table and one
that a table prime divides. Stage (b) says true, after ROUNDS draws, if every round passes, so always for ROUNDS = 0; it
says false, after `k + 1` draws, if round `k` is the first that fails. That it completes has the premise that the
randomness input always answers (R278), which the model's does (log entry 4). -/
def Obligations.PrimetestResult : Prop :=
  (∀ w : Word, decode w = .ok .primetest ↔ w = 0x00000040) ∧ ∀ s : State, s.Inv →
    (s.regN < 2 → TestEnds s false 0) ∧
    (s.regN ∈ s.params.smallPrimes → TestEnds s true 0) ∧
    (s.regN ∉ s.params.smallPrimes → (∃ q ∈ s.params.smallPrimes, s.regN % q = 0) → TestEnds s false 0) ∧
    (∀ d r : Nat, Survives s → d % 2 = 1 → s.regN - 1 = d * 2 ^ r →
      ((∀ k, k < s.rounds.toNat → RoundPasses s d r k) → TestEnds s true s.rounds.toNat) ∧
      (∀ k, k < s.rounds.toNat → (∀ j, j < k → RoundPasses s d r j) → ¬ RoundPasses s d r k → TestEnds s false (k + 1)))

/-- R189, R190: a candidate that reaches stage (b) is odd and at least 5, and `N - 1` splits with `r` at least 1. A draw is
mapped into the witness range, and a `W`-bit draw reaches every value of the range. -/
def Obligations.StageBCandidates : Prop :=
  ∀ s : State, s.Inv → Survives s → s.regN % 2 = 1 ∧ 5 ≤ s.regN ∧ 2 ≤ s.regN - 3 ∧
    1 ≤ (splitPow2 (s.regN - 1)).2 ∧ (splitPow2 (s.regN - 1)).1 % 2 = 1 ∧
    s.regN - 1 = (splitPow2 (s.regN - 1)).1 * 2 ^ (splitPow2 (s.regN - 1)).2 ∧
    (∀ draw, 2 ≤ witnessOf s.regN draw ∧ witnessOf s.regN draw ≤ s.regN - 2) ∧
    (∀ a, 2 ≤ a → a ≤ s.regN - 2 → ∃ draw, draw < 2 ^ s.params.width ∧ witnessOf s.regN draw = a)

/-- R192: PRIMETEST answers true for a prime, whatever the draws. That it completes has the premise that the randomness
input always answers (R278), which the model's does (log entry 4). -/
def Obligations.PrimesPass : Prop :=
  ∀ s : State, s.Inv → s.regN.Prime → ∃ used, TestEnds s true used

/-! ### What commands change, read and report (R22, R23, R28, R231, R233) -/

/-- R23: a command changes no register that R22 does not list for it, and no byte of another window; A, B and N survive
every command but MOV and LDI. -/
def Obligations.CommandsWriteOnlyListedRegisters : Prop :=
  ∀ (i : Instr) (s t : State), exec i s = .next t →
    SameBig s t (writes i) ∧ SameControl s t ∧ (i ≠ .primetest → SameDraws s t) ∧
    (∀ off, 0x400 ≤ off → off < 0x2000 → windowAt off ∉ writes i → t.windowByte off = s.windowByte off) ∧
    ((∀ rd rs, i ≠ .mov rd rs) → (∀ rd imm, i ≠ .ldi rd imm) →
      t.regA = s.regA ∧ t.regB = s.regB ∧ t.regN = s.regN)

/-- R22, R94: a command's outcome depends on the registers it reads and, for PRIMETEST, on ROUNDS and the draws, and on
nothing else: no other register, no flag, no other status. -/
def Obligations.CommandsReadOnlyListedRegisters : Prop :=
  ∀ (i : Instr) (s s' t t' : State), s'.params = s.params → (∀ x ∈ reads i, s'.g x = s.g x) →
    (i = .primetest → s'.rounds = s.rounds ∧ s'.rngPos = s.rngPos ∧ s'.rngGiven = s.rngGiven) →
    exec i s = .next t → exec i s' = .next t' →
    t'.status.err = t.status.err ∧
    (t.status.err = none →
      (∀ x ∈ writes i, t'.big x = t.big x) ∧ (writesZ i = true → t'.status.z = t.status.z) ∧
      (i = .cmp → t'.status.eq = t.status.eq ∧ t'.status.lt = t.status.lt ∧ t'.status.gt = t.status.gt) ∧
      (i = .primetest → t'.status.prime = t.status.prime ∧ t'.rngPos = t.rngPos))

/-- R28: which flag each command writes and with what value; an error writes none. No command reads a flag. Flags change
in no step but a completion without error and a reset, which makes them all 0. -/
def Obligations.FlagRule : Prop :=
  (∀ (i : Instr) (s t : State), exec i s = .next t →
    (t.status.err ≠ none → SameFlags s t) ∧
    (t.status.err = none →
      (if writesZ i then (t.status.z = true ↔ t.regR = 0) else t.status.z = s.status.z) ∧
      (if i = .cmp then (t.status.eq = true ↔ s.regA = s.regB) ∧ (t.status.lt = true ↔ s.regA < s.regB) ∧
          (t.status.gt = true ↔ s.regB < s.regA)
        else t.status.eq = s.status.eq ∧ t.status.lt = s.status.lt ∧ t.status.gt = s.status.gt) ∧
      (if i = .primetest then t.status.prime = s.primeTest.1 else t.status.prime = s.status.prime))) ∧
  (∀ (i : Instr) (s t : State) (z eq lt gt prime : Bool), exec i s = .next t →
    ∃ t', exec i { s with status := { s.status with z := z, eq := eq, lt := lt, gt := gt, prime := prime } } = .next t' ∧
      (∀ x, t'.big x = t.big x) ∧ t'.status.err = t.status.err ∧ t'.rngPos = t.rngPos) ∧
  (∀ s t : State, step s = .next t → ¬ SameFlags s t →
    (s.status.busy = true ∧ (s.events = [] ∨ s.events.head? = some .engine) ∧ t.status.err = none ∧
      ∃ i, decode s.cmd = .ok i) ∨
    (NextIsReset s ∧ t.status.z = false ∧ t.status.eq = false ∧ t.status.lt = false ∧ t.status.gt = false ∧
      t.status.prime = false))

/-- R233: errors are precise. -/
def Obligations.ErrorsArePrecise : Prop :=
  ∀ (i : Instr) (s t : State) (e : CmdError), exec i s = .next t → t.status.err = some e → ErrsFrom s t e

/-- R231: the codes, and for each the exact cause. -/
def Obligations.ErrorCauses : Prop :=
  errField none = 0 ∧ errField (some .illegalCmd) = 1 ∧ errField (some .divZero) = 2 ∧ errField (some .modZero) = 3 ∧
  errField (some .overflow) = 4 ∧ errField (some .underflow) = 5 ∧ errField (some .modEven) = 6 ∧
  errField (some .notInvertible) = 7 ∧ errField (some .range) = 8 ∧
  (∀ s t : State, s.status.busy = true → s.engineTurn = .next t →
    (t.status.err = some .illegalCmd ↔ ¬ ∃ i, decode s.cmd = .ok i)) ∧
  (∀ (i : Instr) (s t : State), exec i s = .next t →
    (t.status.err = some .divZero ↔ i = .div ∧ s.regB = 0) ∧
    (t.status.err = some .modZero ↔ i ∈ [.mod, .mulmod, .montmul, .modexp, .modinv] ∧ s.regN = 0) ∧
    (t.status.err = some .overflow ↔ (i = .add ∧ 2 ^ s.params.width ≤ s.regA + s.regB) ∨
      (i = .mul ∧ 2 ^ s.params.width ≤ s.regA * s.regB) ∨ ∃ rd imm, i = .ldi rd imm ∧ 2 ^ s.params.width ≤ imm) ∧
    (t.status.err = some .underflow ↔ i = .sub ∧ s.regA < s.regB) ∧
    (t.status.err = some .modEven ↔ i = .montmul ∧ s.regN ≠ 0 ∧ s.regN % 2 = 0) ∧
    (t.status.err = some .notInvertible ↔ i = .modinv ∧ s.regN ≠ 0 ∧ Nat.gcd s.regA s.regN ≠ 1) ∧
    (t.status.err = some .range ↔ i = .montmul ∧ s.regN % 2 = 1 ∧ (s.regN ≤ s.regA ∨ s.regN ≤ s.regB)))

/-! ### The host port (20_memory.md) -/

/-- R66: a byte of a general register's window, idle. -/
def Obligations.GeneralWindowBytes : Prop :=
  ∀ (s : State) (x : GReg) (k : Nat) (b : Byte), s.Inv → s.status.busy = false → k < 0x400 →
    (k < s.params.width / 8 →
      s.readValue ((BigReg.gen x).windowStart + k) .byte =
        .byte (BitVec.ofNat 8 (s.g x / 256 ^ (s.params.width / 8 - 1 - k))) ∧
      ∃ t, s.hostWrite ((BigReg.gen x).windowStart + k) (.byte b) = t ∧
        t.g x = s.g x - s.g x / 256 ^ (s.params.width / 8 - 1 - k) % 256 * 256 ^ (s.params.width / 8 - 1 - k)
          + b.toNat * 256 ^ (s.params.width / 8 - 1 - k) ∧
        (∀ j, j < s.params.width / 8 → t.readValue ((BigReg.gen x).windowStart + j) .byte =
          if j = k then .byte b else s.readValue ((BigReg.gen x).windowStart + j) .byte) ∧
        SameBig s t [.gen x] ∧ t.status = s.status ∧ SameControl s t ∧ SameDraws s t) ∧
    (s.params.width / 8 ≤ k →
      s.readValue ((BigReg.gen x).windowStart + k) .byte = .byte 0 ∧
      s.hostWrite ((BigReg.gen x).windowStart + k) (.byte b) = s)

/-- R67: a byte of SX's or SY's window, idle; writes to it are ignored, also while BUSY. -/
def Obligations.SignedWindowBytes : Prop :=
  ∀ (s : State) (x : BigReg) (k : Nat), s.Inv → (x = .sx ∨ x = .sy) → k < 0x400 →
    (s.status.busy = false → s.readValue (x.windowStart + k) .byte =
      .byte (if k < 2 * (s.params.width / 8) then BitVec.ofNat 8 (s.big x / 256 ^ (2 * (s.params.width / 8) - 1 - k))
        else 0)) ∧
    (∀ data : BusData, s.hostWrite (x.windowStart + k) data = s)

/-- R62, R63: a word access to a window is four byte accesses, the byte at the lowest offset most significant. -/
def Obligations.WordAccessIsFourBytes : Prop :=
  ∀ (s : State) (off : Nat), s.status.busy = false → 0x400 ≤ off → off + 4 ≤ 0x2000 → off % 4 = 0 →
    (∀ b3 b2 b1 b0 : Byte, s.readValue off .byte = .byte b3 → s.readValue (off + 1) .byte = .byte b2 →
      s.readValue (off + 2) .byte = .byte b1 → s.readValue (off + 3) .byte = .byte b0 →
      s.readValue off .word = .word (b3 ++ b2 ++ b1 ++ b0)) ∧
    (∀ v : Word, s.hostWrite off (.word v) =
      (((s.hostWrite off (.byte (v.extractLsb' 24 8))).hostWrite (off + 1) (.byte (v.extractLsb' 16 8))).hostWrite
        (off + 2) (.byte (v.extractLsb' 8 8))).hostWrite (off + 3) (.byte (v.extractLsb' 0 8)))

/-- R64: bad accesses read 0 and write nothing. That this holds with BUSY 1 too, so that a word read from a misaligned
window offset is then 0 and not free as R271 can be read, is the model's reading (log entry 8). -/
def Obligations.BadAccesses : Prop :=
  ∀ (s : State) (off : Nat),
    (off < 0x400 → s.readValue off .byte = .byte 0 ∧ ∀ b, s.hostWrite off (.byte b) = s) ∧
    (off % 4 ≠ 0 → s.readValue off .word = .word 0 ∧ ∀ v, s.hostWrite off (.word v) = s)

/-- R69: `WR x, v` followed by `RD x` gives back `v`, `WB` bytes long, and the register holds `v`. -/
def Obligations.WindowRoundTrip : Prop :=
  ∀ (s : State) (x : GReg) (v : Nat) (rest : List Event), s.Inv → s.status.busy = false → v < 2 ^ s.params.width →
    s.events = wrDirective s.params x v ++ rdDirective s.params (.gen x) ++ rest →
    ∃ t, Sys2Proof.core.run (2 * (s.params.width / 8)) s = .next t ∧ t.g x = v ∧
      t.rdValue (s.params.width / 8) = v ∧ t.reads.length = s.reads.length + s.params.width / 8 ∧ t.events = rest ∧
      SameBig s t [.gen x] ∧ t.status = s.status

/-- R30, R31, R29: ID and CONFIG are constants, reserved offsets read 0, and writes to them and to RNGCNT are ignored. -/
def Obligations.ReadOnlyControlRegisters : Prop :=
  ∀ s : State, s.Inv →
    s.readValue 0x000 .word = .word 0x52534131 ∧
    (∃ c : Word, s.readValue 0x004 .word = .word c ∧ c.toNat % 2 ^ 16 = s.params.width ∧
      c.toNat / 2 ^ 16 = s.params.smallPrimes.length) ∧
    (∀ off, 0x01C ≤ off → off < 0x400 → off % 4 = 0 → s.readValue off .word = .word 0) ∧
    (∀ off v, off ∈ [0x000, 0x004, 0x018] ∨ (0x01C ≤ off ∧ off < 0x400) → s.hostWrite off (.word v) = s)

/-- R32: CTRL. -/
def Obligations.CtrlRegister : Prop :=
  ∀ (s : State) (v : Word),
    (v.getLsbD 31 = true → s.hostWrite 0x008 (.word v) = s.resetEvent ∧
      s.resetEvent.readValue 0x008 .word = .word 0) ∧
    (v.getLsbD 31 = false → ∃ t, s.hostWrite 0x008 (.word v) = t ∧ t.ctrl.ieDone = v.getLsbD 0 ∧
      t.ctrl.ieErr = v.getLsbD 1 ∧ SameBig s t [] ∧ t.status = s.status ∧ t.cmd = s.cmd ∧ t.rounds = s.rounds ∧
      SameDraws s t ∧ t.readValue 0x008 .word = .word (v &&& 3))

/-- R33: the layout of STATUS as read, and what a write clears. -/
def Obligations.StatusRegister : Prop :=
  (∀ s : State, ∃ w : Word, s.readValue 0x00C .word = .word w ∧ w.getLsbD 0 = s.status.busy ∧
    w.getLsbD 1 = s.status.done ∧ w.getLsbD 2 = s.status.errs ∧ w.getLsbD 3 = s.status.busyViol ∧
    w.getLsbD 4 = s.status.z ∧ w.getLsbD 5 = s.status.eq ∧ w.getLsbD 6 = s.status.lt ∧ w.getLsbD 7 = s.status.gt ∧
    w.getLsbD 8 = s.status.prime ∧ w.extractLsb' 9 7 = 0 ∧ w.extractLsb' 16 4 = errField s.status.err ∧
    w.extractLsb' 20 12 = 0) ∧
  (∀ (s : State) (v : Word), ∃ t, s.hostWrite 0x00C (.word v) = t ∧
    t.status.done = (s.status.done && !v.getLsbD 1) ∧ t.status.errs = (s.status.errs && !v.getLsbD 2) ∧
    t.status.busyViol = (s.status.busyViol && !v.getLsbD 3) ∧ t.status.busy = s.status.busy ∧
    t.status.err = s.status.err ∧ SameFlags s t ∧ SameBig s t [] ∧ t.ctrl = s.ctrl ∧ t.cmd = s.cmd ∧
    t.rounds = s.rounds ∧ SameDraws s t)

/-- R95, R35 to R37: writes of CMD and ROUNDS. A CMD write issues the command, whatever the word. While BUSY both are
ignored and set BUSYVIOL. -/
def Obligations.CmdAndRoundsWrites : Prop :=
  ∀ (s : State) (w : Word),
    (s.status.busy = false → ∃ t, s.hostWrite 0x010 (.word w) = t ∧ t.cmd = w ∧ t.status.busy = true ∧
      t.status.done = false ∧ t.status.errs = s.status.errs ∧ t.status.busyViol = s.status.busyViol ∧
      t.status.err = s.status.err ∧ SameFlags s t ∧ SameBig s t [] ∧ t.ctrl = s.ctrl ∧ t.rounds = s.rounds ∧
      SameDraws s t ∧ t.readValue 0x010 .word = .word w) ∧
    (s.status.busy = false → ∃ t, s.hostWrite 0x014 (.word w) = t ∧ t.rounds = w ∧
      t.readValue 0x014 .word = .word w ∧ SameBig s t [] ∧ t.status = s.status ∧ t.ctrl = s.ctrl ∧ t.cmd = s.cmd ∧
      SameDraws s t) ∧
    (s.status.busy = true →
      s.hostWrite 0x010 (.word w) = { s with status := { s.status with busyViol := true } } ∧
      s.hostWrite 0x014 (.word w) = { s with status := { s.status with busyViol := true } })

/-! ### The busy window (R24, R270, R271) -/

/-- R270: writes while BUSY. -/
def Obligations.BusyWrites : Prop :=
  ∀ s : State, s.status.busy = true →
    (∀ off, off = 0x010 ∨ off = 0x014 ∨ (0x400 ≤ off ∧ off < 0x1800 ∧ off % 4 = 0) → ∀ v,
      s.hostWrite off (.word v) = { s with status := { s.status with busyViol := true } }) ∧
    (∀ off, 0x400 ≤ off → off < 0x1800 → ∀ b,
      s.hostWrite off (.byte b) = { s with status := { s.status with busyViol := true } }) ∧
    (∀ v : Word, v.getLsbD 31 = false → s.hostWrite 0x008 (.word v) =
      { s with ctrl := { ieDone := v.getLsbD 0, ieErr := v.getLsbD 1 } }) ∧
    (∀ v : Word, (s.hostWrite 0x00C (.word v)).status.busyViol = (s.status.busyViol && !v.getLsbD 3) ∧
      (s.hostWrite 0x00C (.word v)).status.errs = (s.status.errs && !v.getLsbD 2)) ∧
    (∀ off data, (off ∈ [0x000, 0x004, 0x018] ∨ (0x01C ≤ off ∧ off < 0x400) ∨ (0x1800 ≤ off ∧ off < 0x2000)) →
      s.hostWrite off data = s) ∧
    (∀ off, off < 0x400 → ∀ b, s.hostWrite off (.byte b) = s) ∧
    (∀ off, off % 4 ≠ 0 → ∀ v, s.hostWrite off (.word v) = s)

/-- R271: a window read while BUSY tells nothing of any register: two blocks that differ in everything but the count of
free values taken read the same, and the next read takes another free value. RNGCNT reads a count between that at issue
and that at completion; the other control registers read true. The count of free values taken is the model's own device:
that it alone fixes what such a read returns, and that every busy read advances it, is the model's choice (log entry 6),
and so is the form of the free count (log entry 7). -/
def Obligations.BusyReads : Prop :=
  (∀ (s s' : State) (off : Nat) (size : Size), s.status.busy = true → s'.status.busy = true →
    s'.freeCtr = s.freeCtr → 0x400 ≤ off → s'.readValue off size = s.readValue off size) ∧
  (∀ (s : State) (off : Nat) (size : Size), s.status.busy = true → (s.hostRead off size).freeCtr = s.freeCtr + 1) ∧
  (∀ s : State, s.status.busy = true → ∃ used t, ∃ j : Nat, s.engineTurn = .next t ∧
    t.rngPos = s.rngPos + used ∧ t.rngcnt = s.rngcnt + BitVec.ofNat 32 used ∧ j ≤ used ∧
    s.readValue 0x018 .word = .word (s.rngcnt + BitVec.ofNat 32 j)) ∧
  (∀ s : State, s.readValue 0x000 .word = .word 0x52534131 ∧ s.readValue 0x004 .word = .word (configWord s.params) ∧
    s.readValue 0x00C .word = .word s.status.word ∧ s.readValue 0x010 .word = .word s.cmd ∧
    s.readValue 0x014 .word = .word s.rounds ∧ s.readValue 0x008 .word = .word s.ctrl.word)

/-- R62, R70: a read changes nothing of the block; while idle RNGCNT reads its count and reading again reads the same. -/
def Obligations.ReadsHaveNoSideEffect : Prop :=
  ∀ (s : State) (off : Nat) (size : Size), ∃ t, s.hostRead off size = t ∧ SameBig s t [] ∧ t.ctrl = s.ctrl ∧
    t.status = s.status ∧ t.cmd = s.cmd ∧ t.rounds = s.rounds ∧ SameDraws s t ∧
    t.reads = s.readValue off size :: s.reads ∧
    (s.status.busy = false → s.readValue 0x018 .word = .word s.rngcnt ∧
      ∀ off' size', t.readValue off' size' = s.readValue off' size')

/-- R24, R270: while a command is in flight no host access but a soft reset changes what it will read, its word, the flags
or the error of the command before it, however many accesses there are. -/
def Obligations.OperandsStableWhileBusy : Prop :=
  ∀ (es rest : List Event) (s t : State), s.status.busy = true → (∀ e ∈ es, Harmless s.params e) →
    s.events = es ++ rest → Sys2Proof.core.run es.length s = .next t →
    t.status.busy = true ∧ SameBig s t [] ∧ t.cmd = s.cmd ∧ t.rounds = s.rounds ∧ SameDraws s t ∧ SameFlags s t ∧
    t.status.err = s.status.err ∧ t.events = rest

/-! ### Reset (70_reset_and_hazards.md) -/

/-- R50, R261: the state after reset. That the parameters are the defaults is the model's choice (log entry 1). -/
def Obligations.ResetStateValues : Prop :=
  State.reset.readValue 0x000 .word = .word 0x52534131 ∧ State.reset.readValue 0x004 .word = .word 0x00360020 ∧
  State.reset.readValue 0x008 .word = .word 0 ∧ State.reset.readValue 0x00C .word = .word 0 ∧
  State.reset.readValue 0x010 .word = .word 0 ∧ State.reset.readValue 0x014 .word = .word 100 ∧
  State.reset.readValue 0x018 .word = .word 0 ∧ State.reset.irq = false ∧ step State.reset = .next State.reset

/-- R260, R261, R51, R52: the reset event, from any state. The big registers keep no trace of what they held. `rng_pos`
stays but for the draws a command in flight has made. -/
def Obligations.ResetEvent : Prop :=
  (∀ (s : State) (rest : List Event), s.events = .reset :: rest → ∃ t, step s = .next t ∧
    t.status = Status.reset ∧ t.ctrl = Ctrl.reset ∧ t.cmd = 0 ∧ t.rounds = 100 ∧ t.rngcnt = 0 ∧ t.irq = false ∧
    t.status.word = 0 ∧ t.ctrl.word = 0 ∧ t.params = s.params ∧ t.rngGiven = s.rngGiven ∧
    (∀ x, t.g x < 2 ^ s.params.width) ∧ t.regSX < 2 ^ (2 * s.params.width) ∧ t.regSY < 2 ^ (2 * s.params.width) ∧
    (s.status.busy = false → t.rngPos = s.rngPos) ∧
    (s.status.busy = true → ∃ used u, ({ s with events := rest } : State).engineTurn = .next u ∧
      u.rngPos = s.rngPos + used ∧ s.rngPos ≤ t.rngPos ∧ t.rngPos ≤ s.rngPos + used)) ∧
  (∀ s s' : State, s'.params = s.params → s'.freeCtr = s.freeCtr →
    ∀ x, s'.resetEvent.big x = s.resetEvent.big x)

/-! ### Whole-machine rules -/

/-- `State.Inv` holds after reset. -/
def Obligations.InvAtReset : Prop := State.reset.Inv

/-- Every step keeps `State.Inv`. -/
def Obligations.StepKeepsInv : Prop := ∀ s t : State, s.Inv → step s = .next t → t.Inv

/-- R5, R6, R8, R10: no step changes the parameters or the randomness input; its position never moves back. -/
def Obligations.StepKeepsParams : Prop :=
  ∀ s t : State, step s = .next t → t.params = s.params ∧ t.rngGiven = s.rngGiven ∧ s.rngPos ≤ t.rngPos

/-- R234: ERRS is sticky. No step clears it but a write of 1 to its bit and a reset; a completion in error sets it. -/
def Obligations.ErrsIsSticky : Prop :=
  ∀ s t : State, step s = .next t → s.status.errs = true →
    t.status.errs = true ∨ NextIsReset s ∨ ∃ v : Word, v.getLsbD 2 = true ∧ NextIsWordWrite s 0x00C v

/-- R35: CMD holds the most recently accepted word: no step changes it but an accepted CMD write, which latches its data,
and a reset, which makes it 0. -/
def Obligations.CmdHoldsAcceptedWord : Prop :=
  ∀ s t : State, step s = .next t →
    t.cmd = s.cmd ∨ (s.status.busy = false ∧ NextIsWordWrite s 0x010 t.cmd ∧ t.status.busy = true) ∨
      (NextIsReset s ∧ t.cmd = 0)

/-- R38: RNGCNT counts the draws: a step without a reset adds to it, modulo `2^32`, as many as `rng_pos` moved, and only
the completion of a PRIMETEST, with which BUSY falls, moves `rng_pos`. A write to RNGCNT is ignored, also while a command is
in flight. A reset makes RNGCNT 0. -/
def Obligations.RngcntCountsDraws : Prop :=
  ∀ s t : State, step s = .next t →
    (NextIsReset s → t.rngcnt = 0) ∧
    (¬ NextIsReset s → s.rngPos ≤ t.rngPos ∧ t.rngcnt = s.rngcnt + BitVec.ofNat 32 (t.rngPos - s.rngPos) ∧
      (t.rngPos ≠ s.rngPos → s.status.busy = true ∧ decode s.cmd = .ok .primetest ∧ t.status.busy = false)) ∧
    (∀ v, NextIsWordWrite s 0x018 v → t.rngcnt = s.rngcnt ∧ t.rngPos = s.rngPos ∧ t.status = s.status)

/-- R238: the interrupt output is a function of CTRL and STATUS; a completion raises it if DONE is enabled, or if ERRS is
enabled and the command erred; an accepted CMD write drops DONE's share. -/
def Obligations.InterruptLevel : Prop :=
  (∀ s : State, s.irq = true ↔
    (s.ctrl.ieDone = true ∧ s.status.done = true) ∨ (s.ctrl.ieErr = true ∧ s.status.errs = true)) ∧
  (∀ (i : Instr) (s t : State), exec i s = .next t →
    (s.ctrl.ieDone = true → t.irq = true) ∧ (s.ctrl.ieErr = true → t.status.err ≠ none → t.irq = true)) ∧
  (∀ (s : State) (w : Word), s.status.busy = false →
    (s.hostWrite 0x010 (.word w)).irq = (s.ctrl.ieErr && s.status.errs))
end

