-- ==== Sys2Proof/Laws/Decode.lean ====
section
/-! SUPPORT. The fields of a word and the word of fields are inverse to each other. -/

namespace Sys2Proof

/-- The bits of a word by its fields (R91). -/
theorem getLsbD_assembleFields (imm : BitVec 16) (rs rd : BitVec 4) (opc : BitVec 8) (i : Nat) :
    (assembleFields imm rs rd opc).getLsbD i =
      if i < 8 then opc.getLsbD i else if i < 12 then rd.getLsbD (i - 8) else if i < 16 then rs.getLsbD (i - 12)
      else imm.getLsbD (i - 16) := by
  have h : (assembleFields imm rs rd opc).getLsbD i = (imm ++ rs ++ rd ++ opc : BitVec (16 + 4 + 4 + 8)).getLsbD i := rfl
  rw [h, BitVec.getLsbD_append, BitVec.getLsbD_append, BitVec.getLsbD_append]
  by_cases h8 : i < 8
  · simp [h8]
  by_cases h12 : i < 12
  · simp [h8, h12, show i - 8 < 4 by omega]
  by_cases h16 : i < 16
  · simp [h8, h12, h16, show ¬ i - 8 < 4 by omega, show i - 12 < 4 by omega, show i - 8 - 4 = i - 12 by omega]
  · simp [h8, h12, h16, show ¬ i - 8 < 4 by omega, show ¬ i - 8 - 4 < 4 by omega, show i - 8 - 4 - 4 = i - 16 by omega]

@[simp] theorem fieldOpc_assembleFields (imm : BitVec 16) (rs rd : BitVec 4) (opc : BitVec 8) :
    fieldOpc (assembleFields imm rs rd opc) = opc := by
  apply BitVec.eq_of_getLsbD_eq
  intro i hi
  simp only [fieldOpc, BitVec.getLsbD_extractLsb', getLsbD_assembleFields]
  simp [hi]

@[simp] theorem fieldRd_assembleFields (imm : BitVec 16) (rs rd : BitVec 4) (opc : BitVec 8) :
    fieldRd (assembleFields imm rs rd opc) = rd := by
  apply BitVec.eq_of_getLsbD_eq
  intro i hi
  simp only [fieldRd, BitVec.getLsbD_extractLsb', getLsbD_assembleFields]
  simp [hi, show 8 + i < 12 by omega]

@[simp] theorem fieldRs_assembleFields (imm : BitVec 16) (rs rd : BitVec 4) (opc : BitVec 8) :
    fieldRs (assembleFields imm rs rd opc) = rs := by
  apply BitVec.eq_of_getLsbD_eq
  intro i hi
  simp only [fieldRs, BitVec.getLsbD_extractLsb', getLsbD_assembleFields]
  simp [hi, show ¬ 12 + i < 8 by omega, show 12 + i < 16 by omega]

@[simp] theorem fieldImm_assembleFields (imm : BitVec 16) (rs rd : BitVec 4) (opc : BitVec 8) :
    fieldImm (assembleFields imm rs rd opc) = imm := by
  apply BitVec.eq_of_getLsbD_eq
  intro i hi
  simp only [fieldImm, BitVec.getLsbD_extractLsb', getLsbD_assembleFields]
  simp [hi, show ¬ 16 + i < 8 by omega, show ¬ 16 + i < 12 by omega]

theorem assembleFields_fields (w : Word) :
    assembleFields (fieldImm w) (fieldRs w) (fieldRd w) (fieldOpc w) = w := by
  apply BitVec.eq_of_getLsbD_eq
  intro i hi
  simp only [fieldImm, fieldRs, fieldRd, fieldOpc, BitVec.getLsbD_extractLsb', getLsbD_assembleFields]
  split
  · simp_all
  split
  · simp_all [show 8 + (i - 8) = i by omega, show i - 8 < 4 by omega]
  split
  · simp_all [show 12 + (i - 12) = i by omega, show i - 12 < 4 by omega]
  · simp_all [show 16 + (i - 16) = i by omega, show i - 16 < 16 by omega]

@[simp] theorem selectReg_select (x : GReg) : selectReg x.select = some x := by
  cases x <;> rfl

theorem selectReg_eq_some (k : BitVec 4) (x : GReg) (h : selectReg k = some x) : k = x.select := by
  unfold selectReg at h
  repeat' split at h
  all_goals first | (injection h with h; subst h; assumption) | cases h

theorem selectReg_eq_some_iff (k : BitVec 4) (x : GReg) : selectReg k = some x ↔ k = x.select :=
  ⟨selectReg_eq_some k x, fun h => by rw [h, selectReg_select]⟩

/-! ### What each format's decoder accepts -/

theorem decodeZ_eq_ok (w : Word) (i j : Instr) :
    decodeZ w i = .ok j ↔ j = i ∧ fieldRd w = 0 ∧ fieldRs w = 0 ∧ fieldImm w = 0 := by
  unfold decodeZ
  split
  · next h => exact ⟨fun e => ⟨by injection e with e; exact e.symm, h⟩, fun e => by rw [e.1]⟩
  · next h => exact ⟨fun e => (by cases e), fun e => absurd e.2 h⟩

theorem decodeM_eq_ok (w : Word) (j : Instr) :
    decodeM w = .ok j ↔
      ∃ rd rs, j = .mov rd rs ∧ fieldRd w = rd.select ∧ fieldRs w = rs.select ∧ fieldImm w = 0 := by
  constructor
  · intro h
    unfold decodeM at h
    split at h
    · next hi =>
      cases hrd : selectReg (fieldRd w) with
      | none => rw [hrd] at h; cases h
      | some rd =>
        cases hrs : selectReg (fieldRs w) with
        | none => rw [hrd, hrs] at h; cases h
        | some rs =>
          rw [hrd, hrs] at h
          injection h with h
          exact ⟨rd, rs, h.symm, selectReg_eq_some _ _ hrd, selectReg_eq_some _ _ hrs, hi⟩
    · cases h
  · rintro ⟨rd, rs, rfl, hrd, hrs, hi⟩
    simp [decodeM, hrd, hrs, hi]

theorem decodeI_eq_ok (w : Word) (j : Instr) :
    decodeI w = .ok j ↔ ∃ rd, j = .ldi rd (fieldImm w).toNat ∧ fieldRd w = rd.select ∧ fieldRs w = 0 := by
  constructor
  · intro h
    unfold decodeI at h
    split at h
    · next hi =>
      cases hrd : selectReg (fieldRd w) with
      | none => rw [hrd] at h; cases h
      | some rd =>
        rw [hrd] at h
        injection h with h
        exact ⟨rd, h.symm, selectReg_eq_some _ _ hrd, hi⟩
    · cases h
  · rintro ⟨rd, rfl, hrd, hi⟩
    simp [decodeI, hrd, hi]

/-- A legal word is of the Z, M or I format, with its opcode and its unused fields 0 (R92). -/
theorem decode_cases (w : Word) (i : Instr) (h : decode w = .ok i) :
    (fieldOpc w = i.opcode ∧ fieldRd w = 0 ∧ fieldRs w = 0 ∧ fieldImm w = 0 ∧ encode i = assembleFields 0 0 0 i.opcode ∧
      i.WellFormed) ∨
    (∃ rd rs, i = .mov rd rs ∧ fieldOpc w = 1 ∧ fieldRd w = rd.select ∧ fieldRs w = rs.select ∧ fieldImm w = 0) ∨
    (∃ rd, i = .ldi rd (fieldImm w).toNat ∧ fieldOpc w = 2 ∧ fieldRd w = rd.select ∧ fieldRs w = 0) := by
  unfold decode at h
  split at h
  case h_2 hopc =>
    obtain ⟨rd, rs, hj, h1, h2, h3⟩ := (decodeM_eq_ok w i).1 h
    exact .inr (.inl ⟨rd, rs, hj, BitVec.eq_of_toNat_eq hopc, h1, h2, h3⟩)
  case h_3 hopc =>
    obtain ⟨rd, hj, h1, h2⟩ := (decodeI_eq_ok w i).1 h
    exact .inr (.inr ⟨rd, hj, BitVec.eq_of_toNat_eq hopc, h1, h2⟩)
  case h_17 => cases h
  all_goals
    rename_i hopc
    obtain ⟨rfl, h1, h2, h3⟩ := (decodeZ_eq_ok w _ i).1 h
    exact .inl ⟨BitVec.eq_of_toNat_eq hopc, h1, h2, h3, rfl, rfl⟩

end Sys2Proof
end

