-- ==== Sys2Proof/Laws/Numbers.lean ====
section
/-! SUPPORT. What the arithmetic functions of the model compute: the Euclidean loops, exponentiation, bytes of a register,
two's complement. -/

namespace Sys2Proof.Machine

/-! ### Euclid -/

theorem gcdLoop_eq_gcd : ∀ fuel a b : Nat, b ≤ fuel → gcdLoop fuel a b = Nat.gcd a b
  | 0, a, b, h => by
    obtain rfl : b = 0 := by omega
    simp [gcdLoop]
  | fuel + 1, a, b, h => by
    unfold gcdLoop
    split
    · next hb => simp [hb]
    · next hb =>
      have hlt : a % b < b := Nat.mod_lt a (by omega)
      rw [gcdLoop_eq_gcd fuel b (a % b) (by omega), Nat.gcd_comm, ← Nat.gcd_rec, Nat.gcd_comm]

theorem euclidGcd_eq_gcd (a b : Nat) : euclidGcd a b = Nat.gcd a b := gcdLoop_eq_gcd b a b (Nat.le_refl b)

theorem euclidGcd_zero (a : Nat) : euclidGcd a 0 = a := rfl

/-- The depth is irrelevant once it reaches the first argument. -/
theorem bezoutRec_eq_of_le : ∀ f g a b : Nat, a ≤ f → a ≤ g → bezoutRec f a b = bezoutRec g a b
  | 0, 0, _, _, _, _ => rfl
  | 0, g + 1, a, b, hf, _ => by
    obtain rfl : a = 0 := by omega
    simp [bezoutRec]
  | f + 1, 0, a, b, _, hg => by
    obtain rfl : a = 0 := by omega
    simp [bezoutRec]
  | f + 1, g + 1, a, b, hf, hg => by
    unfold bezoutRec
    split
    · rfl
    · next ha =>
      have hlt : b % a < a := Nat.mod_lt b (by omega)
      rw [bezoutRec_eq_of_le f g (b % a) a (by omega) (by omega)]

theorem bezout_zero (b : Nat) : bezout 0 b = (0, 1) := rfl

theorem bezout_pos (a b : Nat) (ha : a ≠ 0) :
    bezout a b = ((bezout (b % a) a).2 - ((b / a : Nat) : Int) * (bezout (b % a) a).1, (bezout (b % a) a).1) := by
  obtain ⟨f, rfl⟩ : ∃ f, a = f + 1 := ⟨a - 1, by omega⟩
  have hlt : b % (f + 1) < f + 1 := Nat.mod_lt b (by omega)
  have h : bezoutRec f (b % (f + 1)) (f + 1) = bezout (b % (f + 1)) (f + 1) :=
    bezoutRec_eq_of_le _ _ _ _ (by omega) (Nat.le_refl _)
  conv => lhs; unfold bezout bezoutRec
  rw [if_neg ha, h]

/-! ### Exponentiation -/

theorem bitAt_eq_testBit (v i : Nat) : bitAt v i = v.testBit i := by
  unfold bitAt
  rw [Nat.testBit_eq_decide_div_mod_eq]
  cases h : decide (v / 2 ^ i % 2 = 1) <;> simp_all

/-- After the bits from `i` up the accumulator is `base ^ (exponent / 2^i)` (R156); the loop over the bits below ends with
the whole power. -/
theorem powLoop_eq (base exponent n : Nat) : ∀ i acc : Nat,
    acc % n = base ^ (exponent / 2 ^ i) % n → acc % n = acc →
    powLoop base exponent n i acc = base ^ exponent % n
  | 0, acc, h, hr => by
    simp only [powLoop]
    rw [← hr, h]
    simp
  | i + 1, acc, h, _ => by
    unfold powLoop
    have hdiv : exponent / 2 ^ i = 2 * (exponent / 2 ^ (i + 1)) + exponent / 2 ^ i % 2 := by
      have : exponent / 2 ^ (i + 1) = exponent / 2 ^ i / 2 := by rw [pow_succ, Nat.div_div_eq_div_mul]
      omega
    have hsq : acc * acc % n = base ^ (2 * (exponent / 2 ^ (i + 1))) % n := by
      rw [Nat.mul_mod, h, ← Nat.mul_mod, ← pow_add, Nat.two_mul]
    by_cases hb : bitAt exponent i = true
    · have hone : exponent / 2 ^ i % 2 = 1 := by simpa [bitAt] using hb
      rw [if_pos hb]
      refine powLoop_eq base exponent n i _ ?_ (Nat.mod_mod _ _)
      rw [Nat.mod_mod, Nat.mul_mod, Nat.mod_mod, hsq, ← Nat.mul_mod, ← pow_succ,
        show exponent / 2 ^ i = 2 * (exponent / 2 ^ (i + 1)) + 1 by omega]
    · have hzero : exponent / 2 ^ i % 2 = 0 := by
        have : exponent / 2 ^ i % 2 ≠ 1 := by simpa [bitAt] using hb
        omega
      rw [if_neg hb]
      refine powLoop_eq base exponent n i _ ?_ (Nat.mod_mod _ _)
      rw [Nat.mod_mod, hsq, show exponent / 2 ^ i = 2 * (exponent / 2 ^ (i + 1)) by omega]

theorem powMod_eq (w base exponent n : Nat) (h : exponent < 2 ^ w) : powMod w base exponent n = base ^ exponent % n := by
  unfold powMod
  rw [powLoop_eq (base % n) exponent n w (1 % n) (by simp [Nat.div_eq_of_lt h]) (Nat.mod_mod _ _), ← Nat.pow_mod]

/-! ### Results fit -/

theorem modInverse_lt (a n : Nat) (hn : 0 < n) : modInverse a n < n := by
  unfold modInverse
  have h1 := Int.emod_nonneg (bezout a n).1 (b := (n : Int)) (by omega)
  have h2 := Int.emod_lt_of_pos (bezout a n).1 (b := (n : Int)) (by omega)
  omega

theorem montMul_lt (w a b n : Nat) (hn : 0 < n) : montMul w a b n < n := Nat.mod_lt _ hn

theorem powLoop_lt (base exponent n : Nat) (hn : 0 < n) : ∀ i acc : Nat, acc < n → powLoop base exponent n i acc < n
  | 0, _, h => h
  | i + 1, acc, _ => by
    unfold powLoop
    exact powLoop_lt base exponent n hn i _ (by split <;> exact Nat.mod_lt _ hn)

theorem powMod_lt (w base exponent n : Nat) (hn : 0 < n) : powMod w base exponent n < n :=
  powLoop_lt _ _ _ hn _ _ (Nat.mod_lt _ hn)

/-! ### Two's complement -/

theorem tc_lt (k : Nat) (z : Int) : tc k z < 2 ^ k := by
  unfold tc
  have hpos : (0 : Int) < ((2 ^ k : Nat) : Int) := by exact_mod_cast Nat.two_pow_pos k
  have h1 := Int.emod_nonneg z (b := ((2 ^ k : Nat) : Int)) (by omega)
  have h2 := Int.emod_lt_of_pos z hpos
  omega

theorem sval_tc (k : Nat) (z : Int) (hk : 0 < k) (h1 : -(2 ^ (k - 1) : Int) ≤ z) (h2 : z < 2 ^ (k - 1)) :
    sval k (tc k z) = z := by
  have hpow : (2 : Int) ^ k = 2 * 2 ^ (k - 1) := by
    rw [← pow_succ']
    congr 1
    omega
  have hcast : ((2 ^ k : Nat) : Int) = 2 * 2 ^ (k - 1) := by
    push_cast
    exact hpow
  unfold sval tc
  rw [hcast]
  by_cases hz : 0 ≤ z
  · have hm : z % (2 * 2 ^ (k - 1)) = z := Int.emod_eq_of_lt hz (by omega)
    rw [hm]
    have hlt : z.toNat < 2 ^ (k - 1) := by
      zify
      omega
    rw [if_pos hlt]
    omega
  · have hm : z % (2 * 2 ^ (k - 1)) = z + 2 * 2 ^ (k - 1) := by
      rw [← Int.add_emod_right]
      exact Int.emod_eq_of_lt (by omega) (by omega)
    rw [hm]
    have hnl : ¬ (z + 2 * 2 ^ (k - 1)).toNat < 2 ^ (k - 1) := by
      zify
      omega
    rw [if_neg hnl]
    omega

/-! ### Bytes of a register -/

theorem byteOf_toNat (n v k : Nat) : (byteOf n v k).toNat = v / 256 ^ (n - 1 - k) % 256 := by
  simp [byteOf]

/-- A number split at one byte: what lies above it, the byte, what lies below it. -/
theorem replaceByte_eq (n v k : Nat) (b : Byte) :
    replaceByte n v k b =
      v / 256 ^ (n - 1 - k) / 256 * (256 ^ (n - 1 - k) * 256) + b.toNat * 256 ^ (n - 1 - k) + v % 256 ^ (n - 1 - k) := by
  unfold replaceByte
  rw [byteOf_toNat]
  generalize n - 1 - k = e
  have h1 := Nat.div_add_mod v (256 ^ e)
  have h2 := Nat.div_add_mod (v / 256 ^ e) 256
  generalize v / 256 ^ e / 256 = hi at *
  generalize v / 256 ^ e % 256 = mid at *
  generalize v % 256 ^ e = lo at *
  rw [← h1, ← h2]
  have : 256 ^ e * (256 * hi + mid) = hi * (256 ^ e * 256) + mid * 256 ^ e := by ring
  omega

theorem replaceByte_lt (n v k : Nat) (b : Byte) (hk : k < n) (hv : v < 256 ^ n) : replaceByte n v k b < 256 ^ n := by
  rw [replaceByte_eq]
  obtain ⟨m, hm⟩ : ∃ m, n = (n - 1 - k) + 1 + m := ⟨k, by omega⟩
  generalize n - 1 - k = e at *
  subst hm
  have hlo : v % 256 ^ e < 256 ^ e := Nat.mod_lt _ (by positivity)
  have hb : b.toNat < 256 := b.isLt
  have hhi : v / 256 ^ e / 256 < 256 ^ m := by
    rw [Nat.div_div_eq_div_mul, ← pow_succ]
    exact Nat.div_lt_of_lt_mul (by rwa [← pow_add])
  rw [pow_add, pow_succ]
  have hp : 0 < 256 ^ e := by positivity
  nlinarith [Nat.mul_le_mul_right (256 ^ e * 256) hhi]

theorem byteOf_replaceByte_same (n v k : Nat) (b : Byte) : byteOf n (replaceByte n v k b) k = b := by
  apply BitVec.eq_of_toNat_eq
  rw [byteOf_toNat, replaceByte_eq]
  generalize n - 1 - k = e
  have hlo : v % 256 ^ e < 256 ^ e := Nat.mod_lt _ (by positivity)
  have hb : b.toNat < 256 := b.isLt
  have : v / 256 ^ e / 256 * (256 ^ e * 256) + b.toNat * 256 ^ e + v % 256 ^ e
      = v % 256 ^ e + 256 ^ e * (v / 256 ^ e / 256 * 256 + b.toNat) := by ring
  rw [this, Nat.add_mul_div_left _ _ (by positivity), Nat.div_eq_of_lt hlo, Nat.zero_add]
  omega

theorem byteOf_replaceByte_other (n v k j : Nat) (b : Byte) (hk : k < n) (hj : j < n) (hne : j ≠ k) :
    byteOf n (replaceByte n v k b) j = byteOf n v j := by
  apply BitVec.eq_of_toNat_eq
  rw [byteOf_toNat, byteOf_toNat, replaceByte_eq]
  have hlo : v % 256 ^ (n - 1 - k) < 256 ^ (n - 1 - k) := Nat.mod_lt _ (by positivity)
  have hb : b.toNat < 256 := b.isLt
  by_cases hlt : j < k
  · -- the byte lies above the replaced one
    obtain ⟨m, hm⟩ : ∃ m, n - 1 - j = (n - 1 - k) + 1 + m := ⟨k - 1 - j, by omega⟩
    rw [hm]
    generalize n - 1 - k = e at *
    have h1 : 256 ^ (e + 1 + m) = 256 ^ e * 256 * 256 ^ m := by ring
    rw [h1, ← Nat.div_div_eq_div_mul, ← Nat.div_div_eq_div_mul v, ← Nat.div_div_eq_div_mul v]
    congr 2
    have hrest : b.toNat * 256 ^ e + v % 256 ^ e < 256 ^ e * 256 := by
      have : 0 < 256 ^ e := by positivity
      nlinarith
    rw [Nat.add_assoc, Nat.add_comm, Nat.add_mul_div_right _ _ (by positivity), Nat.div_eq_of_lt hrest, Nat.zero_add]
  · -- the byte lies below the replaced one
    obtain ⟨m, hm⟩ : ∃ m, n - 1 - k = (n - 1 - j) + 1 + m := ⟨j - 1 - k, by omega⟩
    rw [hm]
    generalize n - 1 - j = e at *
    have h1 : 256 ^ (e + 1 + m) = 256 ^ e * (256 * 256 ^ m) := by ring
    have hv := Nat.div_add_mod v (256 ^ e * (256 * 256 ^ m))
    have key : ∀ x y : Nat, (x * (256 ^ e * (256 * 256 ^ m)) + y) / 256 ^ e % 256 = y / 256 ^ e % 256 := by
      intro x y
      have : x * (256 ^ e * (256 * 256 ^ m)) + y = y + 256 ^ e * (256 * (x * 256 ^ m)) := by ring
      rw [this, Nat.add_mul_div_left _ _ (by positivity)]
      omega
    rw [h1]
    have hsplit : v / (256 ^ e * (256 * 256 ^ m)) / 256 * (256 ^ e * (256 * 256 ^ m) * 256)
        + b.toNat * (256 ^ e * (256 * 256 ^ m)) + v % (256 ^ e * (256 * 256 ^ m))
        = (v / (256 ^ e * (256 * 256 ^ m)) / 256 * 256 + b.toNat) * (256 ^ e * (256 * 256 ^ m))
          + v % (256 ^ e * (256 * 256 ^ m)) := by ring
    rw [hsplit, key]
    conv => rhs; rw [← hv, Nat.mul_comm, key]

/-! ### Parameters -/

theorem bound_eq_bytes (p : Params) (h : p.Legal) : p.bound = 256 ^ p.bytes := by
  obtain ⟨m, hm⟩ := h.width_dvd
  unfold Params.bound Params.bytes
  rw [hm, Nat.mul_div_cancel_left _ (by omega), pow_mul]
  norm_num

end Sys2Proof.Machine
end

