-- ==== Sys2Proof/Laws/State.lean ====
section
/-! SUPPORT. One lemma per field per update of the state, so that no later proof unfolds a record update. -/

namespace Sys2Proof.Machine

variable (s : State)

/-! ### `setG` -/

@[simp] theorem State.setG_params (x : GReg) (v : Nat) : (s.setG x v).params = s.params := by cases x <;> rfl
@[simp] theorem State.setG_regSX (x : GReg) (v : Nat) : (s.setG x v).regSX = s.regSX := by cases x <;> rfl
@[simp] theorem State.setG_regSY (x : GReg) (v : Nat) : (s.setG x v).regSY = s.regSY := by cases x <;> rfl
@[simp] theorem State.setG_ctrl (x : GReg) (v : Nat) : (s.setG x v).ctrl = s.ctrl := by cases x <;> rfl
@[simp] theorem State.setG_status (x : GReg) (v : Nat) : (s.setG x v).status = s.status := by cases x <;> rfl
@[simp] theorem State.setG_cmd (x : GReg) (v : Nat) : (s.setG x v).cmd = s.cmd := by cases x <;> rfl
@[simp] theorem State.setG_rounds (x : GReg) (v : Nat) : (s.setG x v).rounds = s.rounds := by cases x <;> rfl
@[simp] theorem State.setG_rngcnt (x : GReg) (v : Nat) : (s.setG x v).rngcnt = s.rngcnt := by cases x <;> rfl
@[simp] theorem State.setG_rngPos (x : GReg) (v : Nat) : (s.setG x v).rngPos = s.rngPos := by cases x <;> rfl
@[simp] theorem State.setG_rngGiven (x : GReg) (v : Nat) : (s.setG x v).rngGiven = s.rngGiven := by cases x <;> rfl
@[simp] theorem State.setG_events (x : GReg) (v : Nat) : (s.setG x v).events = s.events := by cases x <;> rfl
@[simp] theorem State.setG_reads (x : GReg) (v : Nat) : (s.setG x v).reads = s.reads := by cases x <;> rfl
@[simp] theorem State.setG_freeCtr (x : GReg) (v : Nat) : (s.setG x v).freeCtr = s.freeCtr := by cases x <;> rfl
@[simp] theorem State.setG_g (x y : GReg) (v : Nat) : (s.setG x v).g y = if y = x then v else s.g y := by
  cases x <;> cases y <;> rfl
@[simp] theorem State.g_A : s.g .A = s.regA := rfl
@[simp] theorem State.g_B : s.g .B = s.regB := rfl
@[simp] theorem State.g_N : s.g .N = s.regN := rfl
@[simp] theorem State.g_R : s.g .R = s.regR := rfl
@[simp] theorem State.g_S : s.g .S = s.regS := rfl
@[simp] theorem State.setG_A_regA (v : Nat) : (s.setG .A v).regA = v := rfl
@[simp] theorem State.setG_A_regB (v : Nat) : (s.setG .A v).regB = s.regB := rfl
@[simp] theorem State.setG_A_regN (v : Nat) : (s.setG .A v).regN = s.regN := rfl
@[simp] theorem State.setG_A_regR (v : Nat) : (s.setG .A v).regR = s.regR := rfl
@[simp] theorem State.setG_A_regS (v : Nat) : (s.setG .A v).regS = s.regS := rfl
@[simp] theorem State.setG_B_regA (v : Nat) : (s.setG .B v).regA = s.regA := rfl
@[simp] theorem State.setG_B_regB (v : Nat) : (s.setG .B v).regB = v := rfl
@[simp] theorem State.setG_B_regN (v : Nat) : (s.setG .B v).regN = s.regN := rfl
@[simp] theorem State.setG_B_regR (v : Nat) : (s.setG .B v).regR = s.regR := rfl
@[simp] theorem State.setG_B_regS (v : Nat) : (s.setG .B v).regS = s.regS := rfl
@[simp] theorem State.setG_N_regA (v : Nat) : (s.setG .N v).regA = s.regA := rfl
@[simp] theorem State.setG_N_regB (v : Nat) : (s.setG .N v).regB = s.regB := rfl
@[simp] theorem State.setG_N_regN (v : Nat) : (s.setG .N v).regN = v := rfl
@[simp] theorem State.setG_N_regR (v : Nat) : (s.setG .N v).regR = s.regR := rfl
@[simp] theorem State.setG_N_regS (v : Nat) : (s.setG .N v).regS = s.regS := rfl
@[simp] theorem State.setG_R_regA (v : Nat) : (s.setG .R v).regA = s.regA := rfl
@[simp] theorem State.setG_R_regB (v : Nat) : (s.setG .R v).regB = s.regB := rfl
@[simp] theorem State.setG_R_regN (v : Nat) : (s.setG .R v).regN = s.regN := rfl
@[simp] theorem State.setG_R_regR (v : Nat) : (s.setG .R v).regR = v := rfl
@[simp] theorem State.setG_R_regS (v : Nat) : (s.setG .R v).regS = s.regS := rfl
@[simp] theorem State.setG_S_regA (v : Nat) : (s.setG .S v).regA = s.regA := rfl
@[simp] theorem State.setG_S_regB (v : Nat) : (s.setG .S v).regB = s.regB := rfl
@[simp] theorem State.setG_S_regN (v : Nat) : (s.setG .S v).regN = s.regN := rfl
@[simp] theorem State.setG_S_regR (v : Nat) : (s.setG .S v).regR = s.regR := rfl
@[simp] theorem State.setG_S_regS (v : Nat) : (s.setG .S v).regS = v := rfl

/-! ### `setSigned` -/

@[simp] theorem State.setSigned_params (x y : Int) : (s.setSigned x y).params = s.params := rfl
@[simp] theorem State.setSigned_regA (x y : Int) : (s.setSigned x y).regA = s.regA := rfl
@[simp] theorem State.setSigned_regB (x y : Int) : (s.setSigned x y).regB = s.regB := rfl
@[simp] theorem State.setSigned_regN (x y : Int) : (s.setSigned x y).regN = s.regN := rfl
@[simp] theorem State.setSigned_regR (x y : Int) : (s.setSigned x y).regR = s.regR := rfl
@[simp] theorem State.setSigned_regS (x y : Int) : (s.setSigned x y).regS = s.regS := rfl
@[simp] theorem State.setSigned_regSX (x y : Int) : (s.setSigned x y).regSX = tc (2 * s.params.width) x := rfl
@[simp] theorem State.setSigned_regSY (x y : Int) : (s.setSigned x y).regSY = tc (2 * s.params.width) y := rfl
@[simp] theorem State.setSigned_ctrl (x y : Int) : (s.setSigned x y).ctrl = s.ctrl := rfl
@[simp] theorem State.setSigned_status (x y : Int) : (s.setSigned x y).status = s.status := rfl
@[simp] theorem State.setSigned_cmd (x y : Int) : (s.setSigned x y).cmd = s.cmd := rfl
@[simp] theorem State.setSigned_rounds (x y : Int) : (s.setSigned x y).rounds = s.rounds := rfl
@[simp] theorem State.setSigned_rngcnt (x y : Int) : (s.setSigned x y).rngcnt = s.rngcnt := rfl
@[simp] theorem State.setSigned_rngPos (x y : Int) : (s.setSigned x y).rngPos = s.rngPos := rfl
@[simp] theorem State.setSigned_rngGiven (x y : Int) : (s.setSigned x y).rngGiven = s.rngGiven := rfl
@[simp] theorem State.setSigned_events (x y : Int) : (s.setSigned x y).events = s.events := rfl
@[simp] theorem State.setSigned_reads (x y : Int) : (s.setSigned x y).reads = s.reads := rfl
@[simp] theorem State.setSigned_freeCtr (x y : Int) : (s.setSigned x y).freeCtr = s.freeCtr := rfl

/-! ### `takeDraws` -/

@[simp] theorem State.takeDraws_params (n : Nat) : (s.takeDraws n).params = s.params := rfl
@[simp] theorem State.takeDraws_regA (n : Nat) : (s.takeDraws n).regA = s.regA := rfl
@[simp] theorem State.takeDraws_regB (n : Nat) : (s.takeDraws n).regB = s.regB := rfl
@[simp] theorem State.takeDraws_regN (n : Nat) : (s.takeDraws n).regN = s.regN := rfl
@[simp] theorem State.takeDraws_regR (n : Nat) : (s.takeDraws n).regR = s.regR := rfl
@[simp] theorem State.takeDraws_regS (n : Nat) : (s.takeDraws n).regS = s.regS := rfl
@[simp] theorem State.takeDraws_regSX (n : Nat) : (s.takeDraws n).regSX = s.regSX := rfl
@[simp] theorem State.takeDraws_regSY (n : Nat) : (s.takeDraws n).regSY = s.regSY := rfl
@[simp] theorem State.takeDraws_ctrl (n : Nat) : (s.takeDraws n).ctrl = s.ctrl := rfl
@[simp] theorem State.takeDraws_status (n : Nat) : (s.takeDraws n).status = s.status := rfl
@[simp] theorem State.takeDraws_cmd (n : Nat) : (s.takeDraws n).cmd = s.cmd := rfl
@[simp] theorem State.takeDraws_rounds (n : Nat) : (s.takeDraws n).rounds = s.rounds := rfl
@[simp] theorem State.takeDraws_rngcnt (n : Nat) : (s.takeDraws n).rngcnt = s.rngcnt + BitVec.ofNat 32 n := rfl
@[simp] theorem State.takeDraws_rngPos (n : Nat) : (s.takeDraws n).rngPos = s.rngPos + n := rfl
@[simp] theorem State.takeDraws_rngGiven (n : Nat) : (s.takeDraws n).rngGiven = s.rngGiven := rfl
@[simp] theorem State.takeDraws_events (n : Nat) : (s.takeDraws n).events = s.events := rfl
@[simp] theorem State.takeDraws_reads (n : Nat) : (s.takeDraws n).reads = s.reads := rfl
@[simp] theorem State.takeDraws_freeCtr (n : Nat) : (s.takeDraws n).freeCtr = s.freeCtr := rfl

/-! ### The flags -/

@[simp] theorem State.flagZ_params (v : Nat) : (s.flagZ v).params = s.params := rfl
@[simp] theorem State.flagZ_regA (v : Nat) : (s.flagZ v).regA = s.regA := rfl
@[simp] theorem State.flagZ_regB (v : Nat) : (s.flagZ v).regB = s.regB := rfl
@[simp] theorem State.flagZ_regN (v : Nat) : (s.flagZ v).regN = s.regN := rfl
@[simp] theorem State.flagZ_regR (v : Nat) : (s.flagZ v).regR = s.regR := rfl
@[simp] theorem State.flagZ_regS (v : Nat) : (s.flagZ v).regS = s.regS := rfl
@[simp] theorem State.flagZ_regSX (v : Nat) : (s.flagZ v).regSX = s.regSX := rfl
@[simp] theorem State.flagZ_regSY (v : Nat) : (s.flagZ v).regSY = s.regSY := rfl
@[simp] theorem State.flagZ_ctrl (v : Nat) : (s.flagZ v).ctrl = s.ctrl := rfl
@[simp] theorem State.flagZ_cmd (v : Nat) : (s.flagZ v).cmd = s.cmd := rfl
@[simp] theorem State.flagZ_rounds (v : Nat) : (s.flagZ v).rounds = s.rounds := rfl
@[simp] theorem State.flagZ_rngcnt (v : Nat) : (s.flagZ v).rngcnt = s.rngcnt := rfl
@[simp] theorem State.flagZ_rngPos (v : Nat) : (s.flagZ v).rngPos = s.rngPos := rfl
@[simp] theorem State.flagZ_rngGiven (v : Nat) : (s.flagZ v).rngGiven = s.rngGiven := rfl
@[simp] theorem State.flagZ_events (v : Nat) : (s.flagZ v).events = s.events := rfl
@[simp] theorem State.flagZ_reads (v : Nat) : (s.flagZ v).reads = s.reads := rfl
@[simp] theorem State.flagZ_freeCtr (v : Nat) : (s.flagZ v).freeCtr = s.freeCtr := rfl
@[simp] theorem State.flagZ_status_busy (v : Nat) : (s.flagZ v).status.busy = s.status.busy := rfl
@[simp] theorem State.flagZ_status_done (v : Nat) : (s.flagZ v).status.done = s.status.done := rfl
@[simp] theorem State.flagZ_status_errs (v : Nat) : (s.flagZ v).status.errs = s.status.errs := rfl
@[simp] theorem State.flagZ_status_busyViol (v : Nat) : (s.flagZ v).status.busyViol = s.status.busyViol := rfl
@[simp] theorem State.flagZ_status_z (v : Nat) : (s.flagZ v).status.z = (v == 0) := rfl
@[simp] theorem State.flagZ_status_eq (v : Nat) : (s.flagZ v).status.eq = s.status.eq := rfl
@[simp] theorem State.flagZ_status_lt (v : Nat) : (s.flagZ v).status.lt = s.status.lt := rfl
@[simp] theorem State.flagZ_status_gt (v : Nat) : (s.flagZ v).status.gt = s.status.gt := rfl
@[simp] theorem State.flagZ_status_prime (v : Nat) : (s.flagZ v).status.prime = s.status.prime := rfl
@[simp] theorem State.flagZ_status_err (v : Nat) : (s.flagZ v).status.err = s.status.err := rfl
@[simp] theorem State.flagCompare_params (a b : Nat) : (s.flagCompare a b).params = s.params := rfl
@[simp] theorem State.flagCompare_regA (a b : Nat) : (s.flagCompare a b).regA = s.regA := rfl
@[simp] theorem State.flagCompare_regB (a b : Nat) : (s.flagCompare a b).regB = s.regB := rfl
@[simp] theorem State.flagCompare_regN (a b : Nat) : (s.flagCompare a b).regN = s.regN := rfl
@[simp] theorem State.flagCompare_regR (a b : Nat) : (s.flagCompare a b).regR = s.regR := rfl
@[simp] theorem State.flagCompare_regS (a b : Nat) : (s.flagCompare a b).regS = s.regS := rfl
@[simp] theorem State.flagCompare_regSX (a b : Nat) : (s.flagCompare a b).regSX = s.regSX := rfl
@[simp] theorem State.flagCompare_regSY (a b : Nat) : (s.flagCompare a b).regSY = s.regSY := rfl
@[simp] theorem State.flagCompare_ctrl (a b : Nat) : (s.flagCompare a b).ctrl = s.ctrl := rfl
@[simp] theorem State.flagCompare_cmd (a b : Nat) : (s.flagCompare a b).cmd = s.cmd := rfl
@[simp] theorem State.flagCompare_rounds (a b : Nat) : (s.flagCompare a b).rounds = s.rounds := rfl
@[simp] theorem State.flagCompare_rngcnt (a b : Nat) : (s.flagCompare a b).rngcnt = s.rngcnt := rfl
@[simp] theorem State.flagCompare_rngPos (a b : Nat) : (s.flagCompare a b).rngPos = s.rngPos := rfl
@[simp] theorem State.flagCompare_rngGiven (a b : Nat) : (s.flagCompare a b).rngGiven = s.rngGiven := rfl
@[simp] theorem State.flagCompare_events (a b : Nat) : (s.flagCompare a b).events = s.events := rfl
@[simp] theorem State.flagCompare_reads (a b : Nat) : (s.flagCompare a b).reads = s.reads := rfl
@[simp] theorem State.flagCompare_freeCtr (a b : Nat) : (s.flagCompare a b).freeCtr = s.freeCtr := rfl
@[simp] theorem State.flagCompare_status_busy (a b : Nat) : (s.flagCompare a b).status.busy = s.status.busy := rfl
@[simp] theorem State.flagCompare_status_done (a b : Nat) : (s.flagCompare a b).status.done = s.status.done := rfl
@[simp] theorem State.flagCompare_status_errs (a b : Nat) : (s.flagCompare a b).status.errs = s.status.errs := rfl
@[simp] theorem State.flagCompare_status_busyViol (a b : Nat) : (s.flagCompare a b).status.busyViol = s.status.busyViol := rfl
@[simp] theorem State.flagCompare_status_z (a b : Nat) : (s.flagCompare a b).status.z = s.status.z := rfl
@[simp] theorem State.flagCompare_status_eq (a b : Nat) : (s.flagCompare a b).status.eq = (a == b) := rfl
@[simp] theorem State.flagCompare_status_lt (a b : Nat) : (s.flagCompare a b).status.lt = decide (a < b) := rfl
@[simp] theorem State.flagCompare_status_gt (a b : Nat) : (s.flagCompare a b).status.gt = decide (b < a) := rfl
@[simp] theorem State.flagCompare_status_prime (a b : Nat) : (s.flagCompare a b).status.prime = s.status.prime := rfl
@[simp] theorem State.flagCompare_status_err (a b : Nat) : (s.flagCompare a b).status.err = s.status.err := rfl
@[simp] theorem State.flagPrime_params (r : Bool) : (s.flagPrime r).params = s.params := rfl
@[simp] theorem State.flagPrime_regA (r : Bool) : (s.flagPrime r).regA = s.regA := rfl
@[simp] theorem State.flagPrime_regB (r : Bool) : (s.flagPrime r).regB = s.regB := rfl
@[simp] theorem State.flagPrime_regN (r : Bool) : (s.flagPrime r).regN = s.regN := rfl
@[simp] theorem State.flagPrime_regR (r : Bool) : (s.flagPrime r).regR = s.regR := rfl
@[simp] theorem State.flagPrime_regS (r : Bool) : (s.flagPrime r).regS = s.regS := rfl
@[simp] theorem State.flagPrime_regSX (r : Bool) : (s.flagPrime r).regSX = s.regSX := rfl
@[simp] theorem State.flagPrime_regSY (r : Bool) : (s.flagPrime r).regSY = s.regSY := rfl
@[simp] theorem State.flagPrime_ctrl (r : Bool) : (s.flagPrime r).ctrl = s.ctrl := rfl
@[simp] theorem State.flagPrime_cmd (r : Bool) : (s.flagPrime r).cmd = s.cmd := rfl
@[simp] theorem State.flagPrime_rounds (r : Bool) : (s.flagPrime r).rounds = s.rounds := rfl
@[simp] theorem State.flagPrime_rngcnt (r : Bool) : (s.flagPrime r).rngcnt = s.rngcnt := rfl
@[simp] theorem State.flagPrime_rngPos (r : Bool) : (s.flagPrime r).rngPos = s.rngPos := rfl
@[simp] theorem State.flagPrime_rngGiven (r : Bool) : (s.flagPrime r).rngGiven = s.rngGiven := rfl
@[simp] theorem State.flagPrime_events (r : Bool) : (s.flagPrime r).events = s.events := rfl
@[simp] theorem State.flagPrime_reads (r : Bool) : (s.flagPrime r).reads = s.reads := rfl
@[simp] theorem State.flagPrime_freeCtr (r : Bool) : (s.flagPrime r).freeCtr = s.freeCtr := rfl
@[simp] theorem State.flagPrime_status_busy (r : Bool) : (s.flagPrime r).status.busy = s.status.busy := rfl
@[simp] theorem State.flagPrime_status_done (r : Bool) : (s.flagPrime r).status.done = s.status.done := rfl
@[simp] theorem State.flagPrime_status_errs (r : Bool) : (s.flagPrime r).status.errs = s.status.errs := rfl
@[simp] theorem State.flagPrime_status_busyViol (r : Bool) : (s.flagPrime r).status.busyViol = s.status.busyViol := rfl
@[simp] theorem State.flagPrime_status_z (r : Bool) : (s.flagPrime r).status.z = s.status.z := rfl
@[simp] theorem State.flagPrime_status_eq (r : Bool) : (s.flagPrime r).status.eq = s.status.eq := rfl
@[simp] theorem State.flagPrime_status_lt (r : Bool) : (s.flagPrime r).status.lt = s.status.lt := rfl
@[simp] theorem State.flagPrime_status_gt (r : Bool) : (s.flagPrime r).status.gt = s.status.gt := rfl
@[simp] theorem State.flagPrime_status_prime (r : Bool) : (s.flagPrime r).status.prime = r := rfl
@[simp] theorem State.flagPrime_status_err (r : Bool) : (s.flagPrime r).status.err = s.status.err := rfl

/-! ### `writeResult` -/

@[simp] theorem State.writeResult_params (v : Nat) : (s.writeResult v).params = s.params := rfl
@[simp] theorem State.writeResult_regA (v : Nat) : (s.writeResult v).regA = s.regA := rfl
@[simp] theorem State.writeResult_regB (v : Nat) : (s.writeResult v).regB = s.regB := rfl
@[simp] theorem State.writeResult_regN (v : Nat) : (s.writeResult v).regN = s.regN := rfl
@[simp] theorem State.writeResult_regR (v : Nat) : (s.writeResult v).regR = v := rfl
@[simp] theorem State.writeResult_regS (v : Nat) : (s.writeResult v).regS = s.regS := rfl
@[simp] theorem State.writeResult_regSX (v : Nat) : (s.writeResult v).regSX = s.regSX := rfl
@[simp] theorem State.writeResult_regSY (v : Nat) : (s.writeResult v).regSY = s.regSY := rfl
@[simp] theorem State.writeResult_ctrl (v : Nat) : (s.writeResult v).ctrl = s.ctrl := rfl
@[simp] theorem State.writeResult_cmd (v : Nat) : (s.writeResult v).cmd = s.cmd := rfl
@[simp] theorem State.writeResult_rounds (v : Nat) : (s.writeResult v).rounds = s.rounds := rfl
@[simp] theorem State.writeResult_rngcnt (v : Nat) : (s.writeResult v).rngcnt = s.rngcnt := rfl
@[simp] theorem State.writeResult_rngPos (v : Nat) : (s.writeResult v).rngPos = s.rngPos := rfl
@[simp] theorem State.writeResult_rngGiven (v : Nat) : (s.writeResult v).rngGiven = s.rngGiven := rfl
@[simp] theorem State.writeResult_events (v : Nat) : (s.writeResult v).events = s.events := rfl
@[simp] theorem State.writeResult_reads (v : Nat) : (s.writeResult v).reads = s.reads := rfl
@[simp] theorem State.writeResult_freeCtr (v : Nat) : (s.writeResult v).freeCtr = s.freeCtr := rfl
@[simp] theorem State.writeResult_status_busy (v : Nat) : (s.writeResult v).status.busy = s.status.busy := rfl
@[simp] theorem State.writeResult_status_done (v : Nat) : (s.writeResult v).status.done = s.status.done := rfl
@[simp] theorem State.writeResult_status_errs (v : Nat) : (s.writeResult v).status.errs = s.status.errs := rfl
@[simp] theorem State.writeResult_status_busyViol (v : Nat) : (s.writeResult v).status.busyViol = s.status.busyViol := rfl
@[simp] theorem State.writeResult_status_z (v : Nat) : (s.writeResult v).status.z = (v == 0) := rfl
@[simp] theorem State.writeResult_status_eq (v : Nat) : (s.writeResult v).status.eq = s.status.eq := rfl
@[simp] theorem State.writeResult_status_lt (v : Nat) : (s.writeResult v).status.lt = s.status.lt := rfl
@[simp] theorem State.writeResult_status_gt (v : Nat) : (s.writeResult v).status.gt = s.status.gt := rfl
@[simp] theorem State.writeResult_status_prime (v : Nat) : (s.writeResult v).status.prime = s.status.prime := rfl
@[simp] theorem State.writeResult_status_err (v : Nat) : (s.writeResult v).status.err = s.status.err := rfl

/-! ### `complete` -/

@[simp] theorem State.complete_params (err : Option CmdError) : (s.complete err).params = s.params := rfl
@[simp] theorem State.complete_regA (err : Option CmdError) : (s.complete err).regA = s.regA := rfl
@[simp] theorem State.complete_regB (err : Option CmdError) : (s.complete err).regB = s.regB := rfl
@[simp] theorem State.complete_regN (err : Option CmdError) : (s.complete err).regN = s.regN := rfl
@[simp] theorem State.complete_regR (err : Option CmdError) : (s.complete err).regR = s.regR := rfl
@[simp] theorem State.complete_regS (err : Option CmdError) : (s.complete err).regS = s.regS := rfl
@[simp] theorem State.complete_regSX (err : Option CmdError) : (s.complete err).regSX = s.regSX := rfl
@[simp] theorem State.complete_regSY (err : Option CmdError) : (s.complete err).regSY = s.regSY := rfl
@[simp] theorem State.complete_ctrl (err : Option CmdError) : (s.complete err).ctrl = s.ctrl := rfl
@[simp] theorem State.complete_cmd (err : Option CmdError) : (s.complete err).cmd = s.cmd := rfl
@[simp] theorem State.complete_rounds (err : Option CmdError) : (s.complete err).rounds = s.rounds := rfl
@[simp] theorem State.complete_rngcnt (err : Option CmdError) : (s.complete err).rngcnt = s.rngcnt := rfl
@[simp] theorem State.complete_rngPos (err : Option CmdError) : (s.complete err).rngPos = s.rngPos := rfl
@[simp] theorem State.complete_rngGiven (err : Option CmdError) : (s.complete err).rngGiven = s.rngGiven := rfl
@[simp] theorem State.complete_events (err : Option CmdError) : (s.complete err).events = s.events := rfl
@[simp] theorem State.complete_reads (err : Option CmdError) : (s.complete err).reads = s.reads := rfl
@[simp] theorem State.complete_freeCtr (err : Option CmdError) : (s.complete err).freeCtr = s.freeCtr := rfl
@[simp] theorem State.complete_status_busy (err : Option CmdError) : (s.complete err).status.busy = false := rfl
@[simp] theorem State.complete_status_done (err : Option CmdError) : (s.complete err).status.done = true := rfl
@[simp] theorem State.complete_status_errs (err : Option CmdError) : (s.complete err).status.errs = (s.status.errs || err.isSome) := rfl
@[simp] theorem State.complete_status_busyViol (err : Option CmdError) : (s.complete err).status.busyViol = s.status.busyViol := rfl
@[simp] theorem State.complete_status_z (err : Option CmdError) : (s.complete err).status.z = s.status.z := rfl
@[simp] theorem State.complete_status_eq (err : Option CmdError) : (s.complete err).status.eq = s.status.eq := rfl
@[simp] theorem State.complete_status_lt (err : Option CmdError) : (s.complete err).status.lt = s.status.lt := rfl
@[simp] theorem State.complete_status_gt (err : Option CmdError) : (s.complete err).status.gt = s.status.gt := rfl
@[simp] theorem State.complete_status_prime (err : Option CmdError) : (s.complete err).status.prime = s.status.prime := rfl
@[simp] theorem State.complete_status_err (err : Option CmdError) : (s.complete err).status.err = err := rfl

/-! ### The host port -/

@[simp] theorem State.busyViolation_params : (s.busyViolation).params = s.params := rfl
@[simp] theorem State.busyViolation_regA : (s.busyViolation).regA = s.regA := rfl
@[simp] theorem State.busyViolation_regB : (s.busyViolation).regB = s.regB := rfl
@[simp] theorem State.busyViolation_regN : (s.busyViolation).regN = s.regN := rfl
@[simp] theorem State.busyViolation_regR : (s.busyViolation).regR = s.regR := rfl
@[simp] theorem State.busyViolation_regS : (s.busyViolation).regS = s.regS := rfl
@[simp] theorem State.busyViolation_regSX : (s.busyViolation).regSX = s.regSX := rfl
@[simp] theorem State.busyViolation_regSY : (s.busyViolation).regSY = s.regSY := rfl
@[simp] theorem State.busyViolation_ctrl : (s.busyViolation).ctrl = s.ctrl := rfl
@[simp] theorem State.busyViolation_cmd : (s.busyViolation).cmd = s.cmd := rfl
@[simp] theorem State.busyViolation_rounds : (s.busyViolation).rounds = s.rounds := rfl
@[simp] theorem State.busyViolation_rngcnt : (s.busyViolation).rngcnt = s.rngcnt := rfl
@[simp] theorem State.busyViolation_rngPos : (s.busyViolation).rngPos = s.rngPos := rfl
@[simp] theorem State.busyViolation_rngGiven : (s.busyViolation).rngGiven = s.rngGiven := rfl
@[simp] theorem State.busyViolation_events : (s.busyViolation).events = s.events := rfl
@[simp] theorem State.busyViolation_reads : (s.busyViolation).reads = s.reads := rfl
@[simp] theorem State.busyViolation_freeCtr : (s.busyViolation).freeCtr = s.freeCtr := rfl
@[simp] theorem State.busyViolation_status_busy : (s.busyViolation).status.busy = s.status.busy := rfl
@[simp] theorem State.busyViolation_status_done : (s.busyViolation).status.done = s.status.done := rfl
@[simp] theorem State.busyViolation_status_errs : (s.busyViolation).status.errs = s.status.errs := rfl
@[simp] theorem State.busyViolation_status_busyViol : (s.busyViolation).status.busyViol = true := rfl
@[simp] theorem State.busyViolation_status_z : (s.busyViolation).status.z = s.status.z := rfl
@[simp] theorem State.busyViolation_status_eq : (s.busyViolation).status.eq = s.status.eq := rfl
@[simp] theorem State.busyViolation_status_lt : (s.busyViolation).status.lt = s.status.lt := rfl
@[simp] theorem State.busyViolation_status_gt : (s.busyViolation).status.gt = s.status.gt := rfl
@[simp] theorem State.busyViolation_status_prime : (s.busyViolation).status.prime = s.status.prime := rfl
@[simp] theorem State.busyViolation_status_err : (s.busyViolation).status.err = s.status.err := rfl
@[simp] theorem State.issue_params (w : Word) : (s.issue w).params = s.params := rfl
@[simp] theorem State.issue_regA (w : Word) : (s.issue w).regA = s.regA := rfl
@[simp] theorem State.issue_regB (w : Word) : (s.issue w).regB = s.regB := rfl
@[simp] theorem State.issue_regN (w : Word) : (s.issue w).regN = s.regN := rfl
@[simp] theorem State.issue_regR (w : Word) : (s.issue w).regR = s.regR := rfl
@[simp] theorem State.issue_regS (w : Word) : (s.issue w).regS = s.regS := rfl
@[simp] theorem State.issue_regSX (w : Word) : (s.issue w).regSX = s.regSX := rfl
@[simp] theorem State.issue_regSY (w : Word) : (s.issue w).regSY = s.regSY := rfl
@[simp] theorem State.issue_ctrl (w : Word) : (s.issue w).ctrl = s.ctrl := rfl
@[simp] theorem State.issue_cmd (w : Word) : (s.issue w).cmd = w := rfl
@[simp] theorem State.issue_rounds (w : Word) : (s.issue w).rounds = s.rounds := rfl
@[simp] theorem State.issue_rngcnt (w : Word) : (s.issue w).rngcnt = s.rngcnt := rfl
@[simp] theorem State.issue_rngPos (w : Word) : (s.issue w).rngPos = s.rngPos := rfl
@[simp] theorem State.issue_rngGiven (w : Word) : (s.issue w).rngGiven = s.rngGiven := rfl
@[simp] theorem State.issue_events (w : Word) : (s.issue w).events = s.events := rfl
@[simp] theorem State.issue_reads (w : Word) : (s.issue w).reads = s.reads := rfl
@[simp] theorem State.issue_freeCtr (w : Word) : (s.issue w).freeCtr = s.freeCtr := rfl
@[simp] theorem State.issue_status_busy (w : Word) : (s.issue w).status.busy = true := rfl
@[simp] theorem State.issue_status_done (w : Word) : (s.issue w).status.done = false := rfl
@[simp] theorem State.issue_status_errs (w : Word) : (s.issue w).status.errs = s.status.errs := rfl
@[simp] theorem State.issue_status_busyViol (w : Word) : (s.issue w).status.busyViol = s.status.busyViol := rfl
@[simp] theorem State.issue_status_z (w : Word) : (s.issue w).status.z = s.status.z := rfl
@[simp] theorem State.issue_status_eq (w : Word) : (s.issue w).status.eq = s.status.eq := rfl
@[simp] theorem State.issue_status_lt (w : Word) : (s.issue w).status.lt = s.status.lt := rfl
@[simp] theorem State.issue_status_gt (w : Word) : (s.issue w).status.gt = s.status.gt := rfl
@[simp] theorem State.issue_status_prime (w : Word) : (s.issue w).status.prime = s.status.prime := rfl
@[simp] theorem State.issue_status_err (w : Word) : (s.issue w).status.err = s.status.err := rfl
@[simp] theorem State.hostRead_params (off : Nat) (size : Size) : (s.hostRead off size).params = s.params := rfl
@[simp] theorem State.hostRead_regA (off : Nat) (size : Size) : (s.hostRead off size).regA = s.regA := rfl
@[simp] theorem State.hostRead_regB (off : Nat) (size : Size) : (s.hostRead off size).regB = s.regB := rfl
@[simp] theorem State.hostRead_regN (off : Nat) (size : Size) : (s.hostRead off size).regN = s.regN := rfl
@[simp] theorem State.hostRead_regR (off : Nat) (size : Size) : (s.hostRead off size).regR = s.regR := rfl
@[simp] theorem State.hostRead_regS (off : Nat) (size : Size) : (s.hostRead off size).regS = s.regS := rfl
@[simp] theorem State.hostRead_regSX (off : Nat) (size : Size) : (s.hostRead off size).regSX = s.regSX := rfl
@[simp] theorem State.hostRead_regSY (off : Nat) (size : Size) : (s.hostRead off size).regSY = s.regSY := rfl
@[simp] theorem State.hostRead_ctrl (off : Nat) (size : Size) : (s.hostRead off size).ctrl = s.ctrl := rfl
@[simp] theorem State.hostRead_status (off : Nat) (size : Size) : (s.hostRead off size).status = s.status := rfl
@[simp] theorem State.hostRead_cmd (off : Nat) (size : Size) : (s.hostRead off size).cmd = s.cmd := rfl
@[simp] theorem State.hostRead_rounds (off : Nat) (size : Size) : (s.hostRead off size).rounds = s.rounds := rfl
@[simp] theorem State.hostRead_rngcnt (off : Nat) (size : Size) : (s.hostRead off size).rngcnt = s.rngcnt := rfl
@[simp] theorem State.hostRead_rngPos (off : Nat) (size : Size) : (s.hostRead off size).rngPos = s.rngPos := rfl
@[simp] theorem State.hostRead_rngGiven (off : Nat) (size : Size) : (s.hostRead off size).rngGiven = s.rngGiven := rfl
@[simp] theorem State.hostRead_events (off : Nat) (size : Size) : (s.hostRead off size).events = s.events := rfl
@[simp] theorem State.hostRead_reads (off : Nat) (size : Size) : (s.hostRead off size).reads = s.readValue off size :: s.reads := rfl

/-! ### `resetEvent` -/

@[simp] theorem State.resetEvent_params : (s.resetEvent).params = s.params := rfl
@[simp] theorem State.resetEvent_regA : (s.resetEvent).regA = Config.resetContents s.freeCtr 0 % s.params.bound := rfl
@[simp] theorem State.resetEvent_regB : (s.resetEvent).regB = Config.resetContents s.freeCtr 1 % s.params.bound := rfl
@[simp] theorem State.resetEvent_regN : (s.resetEvent).regN = Config.resetContents s.freeCtr 2 % s.params.bound := rfl
@[simp] theorem State.resetEvent_regR : (s.resetEvent).regR = Config.resetContents s.freeCtr 3 % s.params.bound := rfl
@[simp] theorem State.resetEvent_regS : (s.resetEvent).regS = Config.resetContents s.freeCtr 4 % s.params.bound := rfl
@[simp] theorem State.resetEvent_regSX : (s.resetEvent).regSX = Config.resetContents s.freeCtr 5 % s.params.wideBound := rfl
@[simp] theorem State.resetEvent_regSY : (s.resetEvent).regSY = Config.resetContents s.freeCtr 6 % s.params.wideBound := rfl
@[simp] theorem State.resetEvent_ctrl : (s.resetEvent).ctrl = Ctrl.reset := rfl
@[simp] theorem State.resetEvent_status : (s.resetEvent).status = Status.reset := rfl
@[simp] theorem State.resetEvent_cmd : (s.resetEvent).cmd = 0 := rfl
@[simp] theorem State.resetEvent_rounds : (s.resetEvent).rounds = Config.roundsDefault := rfl
@[simp] theorem State.resetEvent_rngcnt : (s.resetEvent).rngcnt = 0 := rfl
@[simp] theorem State.resetEvent_rngPos : (s.resetEvent).rngPos = s.rngPos + s.drawsSoFar := rfl
@[simp] theorem State.resetEvent_rngGiven : (s.resetEvent).rngGiven = s.rngGiven := rfl
@[simp] theorem State.resetEvent_events : (s.resetEvent).events = s.events := rfl
@[simp] theorem State.resetEvent_reads : (s.resetEvent).reads = s.reads := rfl
@[simp] theorem State.resetEvent_freeCtr : (s.resetEvent).freeCtr = s.freeCtr + 1 := rfl

/-! ### `g` and `bound` of an updated state -/

@[simp] theorem State.setSigned_g (x y : Int) (q : GReg) : (s.setSigned x y).g q = s.g q := by cases q <;> rfl
@[simp] theorem State.setSigned_bound (x y : Int) : (s.setSigned x y).bound = s.bound := rfl
@[simp] theorem State.takeDraws_g (n : Nat) (q : GReg) : (s.takeDraws n).g q = s.g q := by cases q <;> rfl
@[simp] theorem State.takeDraws_bound (n : Nat) : (s.takeDraws n).bound = s.bound := rfl
@[simp] theorem State.flagZ_g (v : Nat) (q : GReg) : (s.flagZ v).g q = s.g q := by cases q <;> rfl
@[simp] theorem State.flagZ_bound (v : Nat) : (s.flagZ v).bound = s.bound := rfl
@[simp] theorem State.flagCompare_g (a b : Nat) (q : GReg) : (s.flagCompare a b).g q = s.g q := by cases q <;> rfl
@[simp] theorem State.flagCompare_bound (a b : Nat) : (s.flagCompare a b).bound = s.bound := rfl
@[simp] theorem State.flagPrime_g (r : Bool) (q : GReg) : (s.flagPrime r).g q = s.g q := by cases q <;> rfl
@[simp] theorem State.flagPrime_bound (r : Bool) : (s.flagPrime r).bound = s.bound := rfl
@[simp] theorem State.complete_g (err : Option CmdError) (q : GReg) : (s.complete err).g q = s.g q := by cases q <;> rfl
@[simp] theorem State.complete_bound (err : Option CmdError) : (s.complete err).bound = s.bound := rfl
@[simp] theorem State.busyViolation_g (q : GReg) : (s.busyViolation).g q = s.g q := by cases q <;> rfl
@[simp] theorem State.busyViolation_bound : (s.busyViolation).bound = s.bound := rfl
@[simp] theorem State.issue_g (w : Word) (q : GReg) : (s.issue w).g q = s.g q := by cases q <;> rfl
@[simp] theorem State.issue_bound (w : Word) : (s.issue w).bound = s.bound := rfl
@[simp] theorem State.hostRead_g (off : Nat) (size : Size) (q : GReg) : (s.hostRead off size).g q = s.g q := by cases q <;> rfl
@[simp] theorem State.hostRead_bound (off : Nat) (size : Size) : (s.hostRead off size).bound = s.bound := rfl
@[simp] theorem State.writeResult_g (v : Nat) (y : GReg) : (s.writeResult v).g y = if y = .R then v else s.g y := by
  cases y <;> rfl
@[simp] theorem State.writeResult_bound (v : Nat) : (s.writeResult v).bound = s.bound := rfl
@[simp] theorem State.resetEvent_bound : (s.resetEvent).bound = s.bound := rfl
@[simp] theorem State.setG_bound (x : GReg) (v : Nat) : (s.setG x v).bound = s.bound := by cases x <;> rfl
@[simp] theorem State.raise_eq (e : CmdError) : s.raise e = s.complete (some e) := rfl

end Sys2Proof.Machine
end

