-- ==== Sys2Proof/Laws/Ops.lean ====
section
/-! SUPPORT. What the shared operations can do, each said once: how a command ends, what its effect may touch, what a host
write may do, and what a step is. -/

namespace Sys2Proof.Machine

/-! ### Commands -/

theorem conclude_ok (s u : State) : s.conclude (.ok u) = u.complete none := rfl

theorem conclude_error (s : State) (e : CmdError) : s.conclude (.error e) = s.complete (some e) := rfl

theorem conclude_cases (s : State) (r : Except CmdError State) :
    (∃ u, r = .ok u ∧ s.conclude r = u.complete none) ∨ (∃ e, r = .error e ∧ s.conclude r = s.complete (some e)) := by
  cases r with
  | ok u => exact .inl ⟨u, rfl, rfl⟩
  | error e => exact .inr ⟨e, rfl, rfl⟩

/-- What no command's effect touches: everything but the big registers, the flags, RNGCNT and `rng_pos`. -/
structure EffectFrame (s u : State) : Prop where
  params : u.params = s.params
  ctrl : u.ctrl = s.ctrl
  cmd : u.cmd = s.cmd
  rounds : u.rounds = s.rounds
  rngGiven : u.rngGiven = s.rngGiven
  events : u.events = s.events
  reads : u.reads = s.reads
  freeCtr : u.freeCtr = s.freeCtr
  errs : u.status.errs = s.status.errs
  busyViol : u.status.busyViol = s.status.busyViol

/-- A command ends in an error with none of its effect, or with an effect inside the frame. -/
theorem exec_cases (i : Instr) (s t : State) (h : exec i s = .next t) :
    (∃ e, t = s.complete (some e)) ∨ (∃ u, EffectFrame s u ∧ t = u.complete none) := by
  have key : ∀ r : Except CmdError State, (∀ u, r = .ok u → EffectFrame s u) →
      (Host.Outcome.next (s.conclude r) : Host.Outcome State Fault Refusal) = .next t →
      (∃ e, t = s.complete (some e)) ∨ (∃ u, EffectFrame s u ∧ t = u.complete none) := by
    intro r hr ht
    injection ht with ht
    rcases conclude_cases s r with ⟨u, hu, he⟩ | ⟨e, _, he⟩
    · exact .inr ⟨u, hr u hu, by rw [← ht, he]⟩
    · exact .inl ⟨e, by rw [← ht, he]⟩
  cases i <;>
    refine key _ (fun u hu => ?_) h <;>
    (repeat' split at hu) <;>
    first
      | (injection hu with hu; subst hu; constructor <;> simp)
      | cases hu

/-! ### The host's accesses -/

/-- Bytes written to a window set its register and nothing else; a value of the type stays one. -/
theorem putBytes_eq_setG (x : GReg) : ∀ (bs : List Byte) (s : State) (k : Nat),
    ∃ v, s.putBytes x k bs = s.setG x v ∧ (s.params.Legal → s.g x < s.bound → v < s.bound)
  | [], s, k => ⟨s.g x, by cases x <;> rfl, fun _ h => h⟩
  | b :: rest, s, k => by
    unfold State.putBytes State.putByte
    split
    · next hk =>
      obtain ⟨v, hv, hb⟩ := putBytes_eq_setG x rest (s.setG x (replaceByte s.params.bytes (s.g x) k b)) (k + 1)
      refine ⟨v, by rw [hv]; cases x <;> rfl, fun hl hg => ?_⟩
      have := hb (by simpa using hl) (by
        simp only [State.setG_g, if_true, State.setG_bound]
        unfold State.bound at hg ⊢
        rw [bound_eq_bytes _ hl] at hg ⊢
        exact replaceByte_lt _ _ _ _ hk hg)
      simpa using this
    · exact putBytes_eq_setG x rest s (k + 1)

/-- Everything a host write of `data` at `off` can do to the block: `WriteEffect s off data t` holds of the state `t` after
it and of no other kind of state. -/
inductive WriteEffect (s : State) (off : Nat) (data : BusData) : State → Prop
  /-- the write is ignored -/
  | ignored : WriteEffect s off data s
  /-- it is ignored and recorded -/
  | violation : s.status.busy = true → WriteEffect s off data s.busyViolation
  | softReset (v : Word) : off = 0x008 → data = .word v → v.getLsbD 31 = true → WriteEffect s off data s.resetEvent
  | control (v : Word) : off = 0x008 → data = .word v → v.getLsbD 31 = false →
      WriteEffect s off data { s with ctrl := Ctrl.ofWord v }
  | clear (v : Word) : off = 0x00C → data = .word v →
      WriteEffect s off data { s with status := s.status.clearedBy v }
  | issue (w : Word) : off = 0x010 → data = .word w → s.status.busy = false → WriteEffect s off data (s.issue w)
  | rounds (v : Word) : off = 0x014 → data = .word v → s.status.busy = false →
      WriteEffect s off data { s with rounds := v }
  /-- bytes of the window of `x`: its value stays one of the type -/
  | window (x : GReg) (v : Nat) : Config.windowSize ≤ off → windowAt off = .gen x → s.status.busy = false →
      (s.params.Legal → s.g x < s.bound → v < s.bound) → WriteEffect s off data (s.setG x v)

theorem writeWindow_effect (s : State) (off : Nat) (data : BusData) (bs : List Byte) (hoff : Config.windowSize ≤ off) :
    WriteEffect s off data (s.writeWindow off bs) := by
  unfold State.writeWindow
  cases hw : windowAt off with
  | gen x =>
    cases hb : s.status.busy with
    | true => exact .violation hb
    | false =>
      obtain ⟨v, hv, hl⟩ := putBytes_eq_setG x bs s (off - (BigReg.gen x).windowStart)
      simp only [Bool.false_eq_true, if_false]
      rw [hv]
      exact .window x v hoff hw hb hl
  | sx => exact .ignored
  | sy => exact .ignored

theorem cregAt_eq_some (off : Nat) (r : CReg) (h : cregAt off = some r) : off = r.offset := by
  unfold cregAt at h
  repeat' split at h
  all_goals first | (injection h with h; subst h; assumption) | cases h

theorem writeCreg_effect (s : State) (off : Nat) (r : CReg) (v : Word) (hr : off = r.offset) :
    WriteEffect s off (.word v) (s.writeCreg r v) := by
  cases r with
  | id => exact .ignored
  | config => exact .ignored
  | rngcnt => exact .ignored
  | ctrl =>
    simp only [State.writeCreg]
    split
    · next hv => exact .softReset v hr rfl hv
    · next hv => exact .control v hr rfl (by simpa using hv)
  | status => exact .clear v hr rfl
  | cmd =>
    simp only [State.writeCreg]
    split
    · next hb => exact .violation hb
    · next hb => exact .issue v hr rfl (by simpa using hb)
  | rounds =>
    simp only [State.writeCreg]
    split
    · next hb => exact .violation hb
    · next hb => exact .rounds v hr rfl (by simpa using hb)

theorem hostWrite_effect (s : State) (off : Nat) (data : BusData) : WriteEffect s off data (s.hostWrite off data) := by
  unfold State.hostWrite
  cases data with
  | byte b =>
    simp only
    split
    · exact .ignored
    · next hbad => exact writeWindow_effect s off _ [b] (by simpa [badAccess] using hbad)
  | word v =>
    simp only
    split
    · exact .ignored
    split
    · split
      · next r hc => exact writeCreg_effect s off r v (cregAt_eq_some off r hc)
      · exact .ignored
    · exact writeWindow_effect s off _ (bytesOfWord v) (by omega)

theorem busOffset_inside (p : Params) (off : Nat) (size : Size) (h : off + size.bytes ≤ Config.spaceSize) :
    busOffset p (p.base + off) size = some off := by
  unfold busOffset
  rw [if_pos (by omega), Nat.add_sub_cancel_left]

theorem busOffset_outside (p : Params) (addr : Nat) (size : Size)
    (h : addr < p.base ∨ p.base + Config.spaceSize < addr + size.bytes) : busOffset p addr size = none := by
  unfold busOffset
  rw [if_neg (by omega)]

theorem busOffset_eq_some (p : Params) (addr : Nat) (size : Size) (off : Nat) (h : busOffset p addr size = some off) :
    addr = p.base + off ∧ off + size.bytes ≤ Config.spaceSize := by
  unfold busOffset at h
  split at h
  · injection h with h
    omega
  · cases h

/-- A host access that goes on is a read or a write inside the register space. -/
theorem hostAccess_cases (s t : State) (a : Access) (h : s.hostAccess a = .next t) :
    (∃ addr size off, a = .read addr size ∧ busOffset s.params addr size = some off ∧ t = s.hostRead off size) ∨
    (∃ addr data off, a = .write addr data ∧ busOffset s.params addr data.size = some off ∧ t = s.hostWrite off data) := by
  cases a with
  | read addr size =>
    simp only [State.hostAccess] at h
    split at h
    · next off ho => exact .inl ⟨addr, size, off, rfl, ho, by injection h with h; exact h.symm⟩
    · cases h
  | write addr data =>
    simp only [State.hostAccess] at h
    split at h
    · next off ho => exact .inr ⟨addr, data, off, rfl, ho, by injection h with h; exact h.symm⟩
    · cases h

/-! ### Steps -/

theorem engineTurn_cases (s t : State) (h : s.engineTurn = .next t) :
    (s.status.busy = false ∧ t = s) ∨
    (s.status.busy = true ∧ ∃ i, decode s.cmd = .ok i ∧ exec i s = .next t) ∨
    (s.status.busy = true ∧ ∃ r, decode s.cmd = .error r ∧ t = s.complete (some .illegalCmd)) := by
  unfold State.engineTurn at h
  cases hb : s.status.busy with
  | false =>
    rw [hb] at h
    exact .inl ⟨rfl, by injection h with h; exact h.symm⟩
  | true =>
    rw [hb] at h
    simp only [if_true] at h
    cases hd : decode s.cmd with
    | ok i =>
      rw [hd] at h
      exact .inr (.inl ⟨rfl, i, rfl, h⟩)
    | error r =>
      rw [hd] at h
      exact .inr (.inr ⟨rfl, r, rfl, by injection h with h; exact h.symm⟩)

theorem step_of_nil (s : State) (h : s.events = []) : step s = s.engineTurn := by
  simp [step, h]

theorem step_of_cons (s : State) (e : Event) (rest : List Event) (h : s.events = e :: rest) :
    step s = ({ s with events := rest } : State).runEvent e := by
  simp [step, h]

/-- A step is the engine's turn, a host access or the reset event, from the state with the schedule moved on. -/
theorem step_cases (s t : State) (h : step s = .next t) :
    ((s.events = [] ∨ s.events.head? = some .engine) ∧
      ∃ u : State, u = { s with events := s.events.tail } ∧ u.engineTurn = .next t) ∨
    (∃ (u : State) (a : Access) (rest : List Event), s.events = .access a :: rest ∧ u = { s with events := rest } ∧
      u.hostAccess a = .next t) ∨
    (∃ (u : State) (rest : List Event), s.events = .reset :: rest ∧ u = { s with events := rest } ∧ t = u.resetEvent) := by
  cases hev : s.events with
  | nil =>
    rw [step_of_nil s hev] at h
    exact .inl ⟨.inl rfl, s, by cases s; simp_all, h⟩
  | cons e rest =>
    rw [step_of_cons s e rest hev] at h
    cases e with
    | access a => exact .inr (.inl ⟨_, a, rest, rfl, rfl, h⟩)
    | engine => exact .inl ⟨.inr rfl, _, rfl, h⟩
    | reset => exact .inr (.inr ⟨_, rest, rfl, rfl, by unfold State.runEvent at h; injection h with h; exact h.symm⟩)

end Sys2Proof.Machine
end

