-- ==== Sys2Proof/Laws/HostPort.lean ====
section
/-! SUPPORT. What one access to the register space does, by the kind of its offset: a bad access, a control register, a
window. -/

namespace Sys2Proof.Machine

theorem badAccess_byte (off : Nat) (h : Config.windowSize ≤ off) : badAccess off .byte = false := by
  unfold badAccess
  simpa using h

theorem badAccess_byte_low (off : Nat) (h : off < Config.windowSize) : badAccess off .byte = true := by
  unfold badAccess
  simpa using h

theorem badAccess_word (off : Nat) (h : off % 4 = 0) : badAccess off .word = false := by
  unfold badAccess
  simpa using h

theorem badAccess_word_unaligned (off : Nat) (h : off % 4 ≠ 0) : badAccess off .word = true := by
  unfold badAccess
  simpa using h

/-! ### Windows -/

theorem windowStart_bounds (x : BigReg) :
    Config.windowSize ≤ x.windowStart ∧ x.windowStart % 4 = 0 ∧ x.windowStart + Config.windowSize ≤ Config.spaceSize := by
  rcases x with x | _ | _
  · cases x <;> decide
  · decide
  · decide

theorem windowAt_windowStart (x : BigReg) (k : Nat) (h : k < Config.windowSize) : windowAt (x.windowStart + k) = x := by
  unfold Config.windowSize at h
  have key : ∀ start, start = x.windowStart → windowAt (start + k) = x := by
    intro start hs
    unfold windowAt
    rcases x with x | _ | _ <;> try cases x
    all_goals
      simp only [BigReg.windowStart] at hs
      subst hs
      repeat' split
      all_goals first | rfl | omega
  exact key _ rfl

theorem windowByte_windowStart (s : State) (x : BigReg) (k : Nat) (h : k < Config.windowSize) :
    s.windowByte (x.windowStart + k) =
      if k < registerBytes s.params x then byteOf (registerBytes s.params x) (s.big x) k else 0 := by
  unfold State.windowByte
  rw [windowAt_windowStart x k h, Nat.add_sub_cancel_left]

/-- Every aligned word of the windows lies in one window. -/
theorem exists_window (off : Nat) (h1 : Config.windowSize ≤ off) (h2 : off + 4 ≤ Config.spaceSize) (h4 : off % 4 = 0) :
    ∃ x k, k + 4 ≤ Config.windowSize ∧ off = BigReg.windowStart x + k := by
  unfold Config.windowSize Config.spaceSize at *
  rcases (show off < 0x800 ∨ (0x800 ≤ off ∧ off < 0xC00) ∨ (0xC00 ≤ off ∧ off < 0x1000) ∨ (0x1000 ≤ off ∧ off < 0x1400) ∨
    (0x1400 ≤ off ∧ off < 0x1800) ∨ (0x1800 ≤ off ∧ off < 0x1C00) ∨ 0x1C00 ≤ off by omega) with h | h | h | h | h | h | h
  · exact ⟨.gen .A, off - 0x400, by omega, by simp only [BigReg.windowStart]; omega⟩
  · exact ⟨.gen .B, off - 0x800, by omega, by simp only [BigReg.windowStart]; omega⟩
  · exact ⟨.gen .N, off - 0xC00, by omega, by simp only [BigReg.windowStart]; omega⟩
  · exact ⟨.gen .R, off - 0x1000, by omega, by simp only [BigReg.windowStart]; omega⟩
  · exact ⟨.gen .S, off - 0x1400, by omega, by simp only [BigReg.windowStart]; omega⟩
  · exact ⟨.sx, off - 0x1800, by omega, by simp only [BigReg.windowStart]; omega⟩
  · exact ⟨.sy, off - 0x1C00, by omega, by simp only [BigReg.windowStart]; omega⟩

/-- The windows of SX and SY are the offsets from 0x1800 on. -/
theorem windowAt_gen_iff (off : Nat) : (∃ x, windowAt off = .gen x) ↔ off < 0x1800 := by
  unfold windowAt
  repeat' split
  all_goals first
    | exact ⟨fun _ => by omega, fun _ => ⟨_, rfl⟩⟩
    | exact ⟨fun ⟨_, h⟩ => (by cases h), fun _ => by omega⟩

/-! ### Reads -/

theorem readValue_byte (s : State) (off : Nat) (h : Config.windowSize ≤ off) :
    s.readValue off .byte = .byte (s.byteSeen off 0) := by
  unfold State.readValue
  simp [badAccess_byte off h]

theorem readValue_byte_low (s : State) (off : Nat) (h : off < Config.windowSize) : s.readValue off .byte = .byte 0 := by
  unfold State.readValue
  simp [badAccess_byte_low off h]

theorem readValue_word_unaligned (s : State) (off : Nat) (h : off % 4 ≠ 0) : s.readValue off .word = .word 0 := by
  unfold State.readValue
  simp [badAccess_word_unaligned off h]

theorem readValue_word (s : State) (off : Nat) (h1 : Config.windowSize ≤ off) (h4 : off % 4 = 0) :
    s.readValue off .word =
      .word (wordOfBytes (s.byteSeen off 0) (s.byteSeen (off + 1) 1) (s.byteSeen (off + 2) 2) (s.byteSeen (off + 3) 3)) := by
  unfold State.readValue
  simp [badAccess_word off h4, Nat.not_lt.2 h1]

theorem readValue_creg (s : State) (r : CReg) : s.readValue r.offset .word = .word (s.cregWord r) := by
  cases r <;> rfl

theorem readValue_reserved (s : State) (off : Nat) (h1 : off < Config.windowSize) (hc : cregAt off = none) :
    s.readValue off .word = .word 0 := by
  unfold State.readValue
  simp [h1, hc]

theorem byteSeen_idle (s : State) (off i : Nat) (h : s.status.busy = false) : s.byteSeen off i = s.windowByte off := by
  unfold State.byteSeen
  rw [h]
  rfl

theorem byteSeen_busy (s : State) (off i : Nat) (h : s.status.busy = true) :
    s.byteSeen off i = Config.busyByte s.freeCtr i := by
  unfold State.byteSeen
  rw [h]
  rfl

/-! ### Writes -/

theorem hostWrite_byte (s : State) (off : Nat) (b : Byte) (h : Config.windowSize ≤ off) :
    s.hostWrite off (.byte b) = s.writeWindow off [b] := by
  unfold State.hostWrite
  simp [badAccess_byte off h]

theorem hostWrite_byte_low (s : State) (off : Nat) (b : Byte) (h : off < Config.windowSize) :
    s.hostWrite off (.byte b) = s := by
  unfold State.hostWrite
  simp [badAccess_byte_low off h]

theorem hostWrite_word_unaligned (s : State) (off : Nat) (v : Word) (h : off % 4 ≠ 0) :
    s.hostWrite off (.word v) = s := by
  unfold State.hostWrite
  simp [badAccess_word_unaligned off h]

theorem hostWrite_word (s : State) (off : Nat) (v : Word) (h1 : Config.windowSize ≤ off) (h4 : off % 4 = 0) :
    s.hostWrite off (.word v) = s.writeWindow off (bytesOfWord v) := by
  unfold State.hostWrite
  simp [badAccess_word off h4, Nat.not_lt.2 h1]

theorem hostWrite_creg (s : State) (r : CReg) (v : Word) : s.hostWrite r.offset (.word v) = s.writeCreg r v := by
  cases r <;> rfl

theorem hostWrite_reserved (s : State) (off : Nat) (v : Word) (h1 : off < Config.windowSize) (hc : cregAt off = none) :
    s.hostWrite off (.word v) = s := by
  unfold State.hostWrite
  simp [h1, hc]

theorem cregAt_reserved (off : Nat) (h : 0x01C ≤ off) : cregAt off = none := by
  unfold cregAt
  repeat' split
  all_goals first | rfl | omega

theorem writeWindow_gen_idle (s : State) (x : GReg) (k : Nat) (bs : List Byte) (h : k < Config.windowSize)
    (hb : s.status.busy = false) :
    s.writeWindow ((BigReg.gen x).windowStart + k) bs = s.putBytes x k bs := by
  unfold State.writeWindow
  rw [windowAt_windowStart _ k h]
  simp [hb]

theorem writeWindow_busy (s : State) (off : Nat) (bs : List Byte) (h : off < 0x1800) (hb : s.status.busy = true) :
    s.writeWindow off bs = s.busyViolation := by
  obtain ⟨x, hx⟩ := (windowAt_gen_iff off).2 h
  unfold State.writeWindow
  rw [hx]
  simp [hb]

theorem writeWindow_signed (s : State) (off : Nat) (bs : List Byte) (h : 0x1800 ≤ off) : s.writeWindow off bs = s := by
  have hx : ¬ ∃ x, windowAt off = .gen x := by
    rw [windowAt_gen_iff]
    omega
  unfold State.writeWindow
  cases hw : windowAt off with
  | gen x => exact absurd ⟨x, hw⟩ hx
  | sx => rfl
  | sy => rfl

@[simp] theorem putByte_busy (s : State) (x : GReg) (k : Nat) (b : Byte) :
    (s.putByte x k b).status = s.status := by
  unfold State.putByte
  split <;> simp

end Sys2Proof.Machine
end

