-- ==== Sys2Proof/Laws/PerInstr.lean ====
section
/-! SUPPORT. Per instruction: the word `encode` gives lies in the row of R97's table that has the instruction's opcode. -/

namespace Sys2Proof.Laws.RowMatch

/-- `encode i` matches a row of the table, the one whose `match` is the opcode of `i`, select constraint included. -/
def Statement (i : Instr) : Prop :=
  i.WellFormed → ∃ r ∈ opcodeTable, r.bits = i.opcode.zeroExtend 32 ∧ r.matchesWord (encode i) = true

/-- A word of the I format AND its mask (R97). -/
theorem ldi_masked (imm : BitVec 16) (rd : BitVec 4) : assembleFields imm 0 rd 2 &&& 0x0000F0FF = 2 := by
  apply BitVec.eq_of_getLsbD_eq
  intro i hi
  rw [BitVec.getLsbD_and, getLsbD_assembleFields]
  interval_cases i <;> simp

/-- The RD field of a word of the I format, as R97's constraint reads it. -/
theorem ldi_select (imm : BitVec 16) (rd : BitVec 4) :
    (assembleFields imm 0 rd 2 >>> 8).toNat % 16 = rd.toNat := by
  have h : ((assembleFields imm 0 rd 2) >>> 8).toNat % 16 = (fieldRd (assembleFields imm 0 rd 2)).toNat := by
    simp [fieldRd, BitVec.extractLsb', BitVec.toNat_ushiftRight]
  rw [h, fieldRd_assembleFields]

theorem nop : Statement .nop := fun _ => by decide
theorem mov (rd rs : GReg) : Statement (.mov rd rs) := fun _ => by cases rd <;> cases rs <;> decide
theorem ldi (rd : GReg) (imm : Nat) : Statement (.ldi rd imm) := fun _ => by
  refine ⟨⟨0x00000002, 0x0000F0FF, true, false⟩, by decide, rfl, ?_⟩
  have hsel : rd.select.toNat ≤ 4 := by cases rd <;> decide
  have hmask : encode (.ldi rd imm) &&& 0x0000F0FF = 2 := ldi_masked _ _
  have hsel' : (encode (.ldi rd imm) >>> 8).toNat % 16 ≤ 4 := (ldi_select _ _).trans_le hsel
  generalize encode (.ldi rd imm) = w at hmask hsel' ⊢
  exact Bool.and_eq_true_iff.2 ⟨Bool.and_eq_true_iff.2 ⟨beq_iff_eq.2 hmask, decide_eq_true hsel'⟩, rfl⟩
theorem add : Statement .add := fun _ => by decide
theorem sub : Statement .sub := fun _ => by decide
theorem mul : Statement .mul := fun _ => by decide
theorem div : Statement .div := fun _ => by decide
theorem mod : Statement .mod := fun _ => by decide
theorem cmp : Statement .cmp := fun _ => by decide
theorem gcd : Statement .gcd := fun _ => by decide
theorem mulmod : Statement .mulmod := fun _ => by decide
theorem montmul : Statement .montmul := fun _ => by decide
theorem modexp : Statement .modexp := fun _ => by decide
theorem bezout : Statement .bezout := fun _ => by decide
theorem modinv : Statement .modinv := fun _ => by decide
theorem primetest : Statement .primetest := fun _ => by decide

end Sys2Proof.Laws.RowMatch
end

