-- ==== Sys2Proof/Laws/Run.lean ====
section
/-! SUPPORT. Runs of several steps: the first step, and one run after another. -/

namespace Sys2Proof.Machine

theorem coreRun_succ (M : Host.Core) (k : Nat) (s t : M.State) (h : M.step s = .next t) :
    M.run (k + 1) s = M.run k t := by
  rw [Host.Core.run, h]

/-- A run of `k + 1` steps that goes on has a first step that goes on. -/
theorem coreRun_succ_eq_next (M : Host.Core) (k : Nat) (s u : M.State) (h : M.run (k + 1) s = .next u) :
    ∃ t, M.step s = .next t ∧ M.run k t = .next u := by
  rw [Host.Core.run] at h
  cases hs : M.step s with
  | next t =>
    rw [hs] at h
    exact ⟨t, rfl, h⟩
  | fault r =>
    rw [hs] at h
    cases h
  | refused r =>
    rw [hs] at h
    cases h

theorem run_zero (s : State) : Sys2Proof.core.run 0 s = .next s := rfl

theorem run_succ (k : Nat) (s t : State) (h : step s = .next t) :
    Sys2Proof.core.run (k + 1) s = Sys2Proof.core.run k t := coreRun_succ Sys2Proof.core k s t h

theorem run_succ_eq_next (k : Nat) (s u : State) (h : Sys2Proof.core.run (k + 1) s = .next u) :
    ∃ t, step s = .next t ∧ Sys2Proof.core.run k t = .next u := coreRun_succ_eq_next Sys2Proof.core k s u h

theorem run_add (k : Nat) : ∀ (j : Nat) (s t : State), Sys2Proof.core.run j s = .next t →
    Sys2Proof.core.run (j + k) s = Sys2Proof.core.run k t
  | 0, s, t, h => by
    have h' : s = t := by injection h
    rw [h', Nat.zero_add]
  | j + 1, s, t, h => by
    obtain ⟨u, hu, hr⟩ := run_succ_eq_next j s t h
    rw [Nat.add_right_comm]
    exact (run_succ _ _ _ hu).trans (run_add k j u t hr)

end Sys2Proof.Machine
end

