-- ==== Sys2Proof/Tests/Slice0.lean ====
section
/-! SUPPORT. Small tests, their expected results from the spec (30_encoding.md R99 and R101; the vectors V<n> of
95_test_vectors.md), and for each obligation with hypotheses a witness that meets them. -/

namespace Sys2Proof.Tests

open Sys2Proof.Machine Sys2Proof.Claims

/-! ### States to test on -/

/-- The default parameters with another width. -/
def wide (w : Nat) : Params := { width := w, smallPrimes := defaultPrimes, base := 0 }

/-- The smallest table R6 allows, 8 bits, and a base that is not 0. -/
def tiny : Params := { width := 8, smallPrimes := [2, 3], base := 0x2000 }

/-- An idle block that holds `a`, `b` and `n` in A, B and N, with ROUNDS 3 and the draws of R194 next. -/
def block (p : Params) (a b n : Nat) : State where
  params := p
  regA := a
  regB := b
  regN := n
  regR := 5
  regS := 9
  regSX := 0x12
  regSY := 0x34
  ctrl := Ctrl.reset
  status := Status.reset
  cmd := 0
  rounds := 3
  rngcnt := 0
  rngPos := 0
  rngGiven := [0, 1, 0xFFFFFFFF]
  events := []
  reads := []
  freeCtr := 1

/-- The same block with the word `w` in flight. -/
def inFlight (p : Params) (a b n : Nat) (w : Word) : State := (block p a b n).issue w

/-- What `f` shows of the state after the word `w` is placed and run. -/
def after {α : Type} (s : State) (w : Nat) (f : State → α) : Option α :=
  match step (s.withFetchWord 32 w) with
  | .next t => some (f t)
  | .fault _ => none
  | .refused _ => none

/-- What `f` shows of the state after one step. -/
def afterStep {α : Type} (s : State) (f : State → α) : Option α :=
  match step s with
  | .next t => some (f t)
  | .fault _ => none
  | .refused _ => none

/-- The result and STATUS. -/
def resultAndStatus (t : State) : Nat × Word := (t.regR, t.status.word)

theorem legal_wide (w : Nat) (h1 : 8 ∣ w) (h2 : 8 ≤ w) (h3 : w ≤ 4096) : (wide w).Legal where
  width_dvd := h1
  width_ge := h2
  width_le := h3
  primes_prime := by
    intro q hq
    simp [wide, defaultPrimes] at hq
    rcases hq with h | h | h | h | h | h | h | h | h | h | h | h | h | h | h | h | h | h | h | h | h | h | h | h | h | h |
      h | h | h | h | h | h | h | h | h | h | h | h | h | h | h | h | h | h | h | h | h | h | h | h | h | h | h | h <;>
      subst h <;> norm_num
  primes_increasing := (by decide : defaultPrimes.Pairwise (· < ·))
  two_mem := (by decide : 2 ∈ defaultPrimes)
  three_mem := (by decide : 3 ∈ defaultPrimes)
  primes_lt := by
    intro q hq
    have h256 : ∀ q ∈ defaultPrimes, q < 256 := by decide
    exact lt_of_lt_of_le (h256 q hq) (Nat.pow_le_pow_right (by norm_num) h2 : 2 ^ 8 ≤ 2 ^ w)
  primes_length := (by decide : defaultPrimes.length < 2 ^ 16)
  base_dvd := Nat.dvd_zero _

theorem legal_default : Params.default.Legal := legal_wide 32 (by decide) (by decide) (by decide)

theorem legal_tiny : tiny.Legal where
  width_dvd := by decide
  width_ge := by decide
  width_le := by decide
  primes_prime := by
    intro q hq
    simp [tiny] at hq
    rcases hq with h | h <;> subst h <;> norm_num
  primes_increasing := by decide
  two_mem := by decide
  three_mem := by decide
  primes_lt := by decide
  primes_length := by decide
  base_dvd := by decide

theorem block_inv (p : Params) (a b n : Nat) (hp : p.Legal) (ha : a < 2 ^ p.width) (hb : b < 2 ^ p.width)
    (hn : n < 2 ^ p.width) : (block p a b n).Inv := by
  have h8 : 2 ^ 8 ≤ 2 ^ p.width := Nat.pow_le_pow_right (by norm_num) hp.width_ge
  have h16 : 2 ^ 16 ≤ 2 ^ (2 * p.width) := Nat.pow_le_pow_right (by norm_num) (by have := hp.width_ge; omega)
  refine ⟨hp, fun x => ?_, ?_, ?_, fun h => (by cases h), rfl, rfl, rfl⟩
  · cases x
    · exact ha
    · exact hb
    · exact hn
    · exact lt_of_lt_of_le (by norm_num : 5 < 2 ^ 8) h8
    · exact lt_of_lt_of_le (by norm_num : 9 < 2 ^ 8) h8
  · exact lt_of_lt_of_le (by norm_num : 0x12 < 2 ^ 16) h16
  · exact lt_of_lt_of_le (by norm_num : 0x34 < 2 ^ 16) h16

/-- The values of V51 in the default block. -/
theorem inv_rsa : (block Params.default 65 17 3233).Inv :=
  block_inv _ _ _ _ legal_default (by decide) (by decide) (by decide)

/-- A candidate that reaches stage (b), in the tiny block. -/
theorem inv_tiny (n : Nat) (h : n < 256) : (block tiny 0 0 n).Inv :=
  block_inv _ _ _ _ legal_tiny (by decide) (by decide) (by simpa [tiny] using h)

/-! ### Well-formedness -/

theorem test_wellformed_refuses_wide_immediate : (Instr.ldi .A 65536).wellFormed = false := by decide
theorem test_wellformed_takes_widest_immediate : (Instr.ldi .A 65535).wellFormed = true := by decide

/-! ### Decoding: words written out from R98's layouts and R97's opcodes -/

/-- R97, R98, R99: one word for each constructor, bit 31 first. -/
theorem test_decode_each_command :
    ([(0b00000000000000000000000000000000, .nop), (0b00000000000000000011001000000001, .mov .N .R),
      (0b00001100101000010000001000000010, .ldi .N 3233), (0b00000000000000000000000000010000, .add),
      (0b00000000000000000000000000010001, .sub), (0b00000000000000000000000000010010, .mul),
      (0b00000000000000000000000000010011, .div), (0b00000000000000000000000000010100, .mod),
      (0b00000000000000000000000000010101, .cmp), (0b00000000000000000000000000010110, .gcd),
      (0b00000000000000000000000000100000, .mulmod), (0b00000000000000000000000000100001, .montmul),
      (0b00000000000000000000000000100010, .modexp), (0b00000000000000000000000000110000, .bezout),
      (0b00000000000000000000000000110001, .modinv), (0b00000000000000000000000001000000, .primetest)] :
        List (Nat × Instr)).all (fun p => decodeTableWord 32 p.1 = some p.2) = true := by decide

/-- R98: every select of MOV lands in its field. -/
theorem test_decode_mov_fields : decodeTableWord 32 0x00004101 = some (.mov .B .S) := by decide

/-- R101 and the illegal words of 95_test_vectors.md. -/
theorem test_decode_illegal :
    ([0x00000003, 0x000000FF, 0x00000110, 0x00000111, 0x00005001, 0x00000501, 0x00010001, 0x00001002, 0x00000F02,
      0x80000000] : List Nat).all (fun w => decodeTableWord 32 w = none) = true := by decide

/-- A word of more than 32 bits is no command (R90). -/
theorem test_decode_too_long : decodeTableWord 40 0x10 = none := by decide

/-! ### One step of each command -/

/-- R120's example. -/
theorem test_nop : after { block Params.default 1 2 3 with status := { Status.reset with done := true, errs := true, err := some .overflow } }
    0x00000000 (fun t => t.status.word) = some 0x00000006 := by decide

/-- V2, V8: no flag is written. -/
theorem test_mov : after { block Params.default 1 2 3 with regR := 2790 } 0x00003001 (fun t => (t.regA, t.status.word)) =
    some (2790, 0x00000002) := by decide

/-- V3. -/
theorem test_mov_self : after (block Params.default 1 2 7) 0x00002201 (fun t => (t.regN, t.status.word)) =
    some (7, 0x00000002) := by decide

/-- V4. -/
theorem test_ldi : after (block Params.default 1 2 0xFFFFFFFF) 0x0CA10202 (fun t => (t.regN, t.status.word)) =
    some (3233, 0x00000002) := by decide

/-- V6. -/
theorem test_ldi_overflow : after (block (wide 8) 1 2 3) 0x01000002 (fun t => (t.regA, t.status.word)) =
    some (1, 0x00040006) := by decide

/-- V10. -/
theorem test_add : after (block Params.default 0xFFFFFFFE 1 0) 0x10 resultAndStatus = some (0xFFFFFFFF, 0x00000002) := by
  decide

/-- V11. -/
theorem test_add_overflow : after (block Params.default 0xFFFFFFFF 1 0) 0x10 resultAndStatus = some (5, 0x00040006) := by
  decide

/-- V14. -/
theorem test_sub_underflow : after (block Params.default 3 7 0) 0x11 resultAndStatus = some (5, 0x00050006) := by decide

/-- V15. -/
theorem test_sub_zero : after (block Params.default 9 9 0) 0x11 resultAndStatus = some (0, 0x00000012) := by decide

/-- V17. -/
theorem test_mul : after (block Params.default 65535 65537 0) 0x12 resultAndStatus = some (0xFFFFFFFF, 0x00000002) := by
  decide

/-- V18. -/
theorem test_mul_overflow : after (block Params.default 65536 65536 0) 0x12 resultAndStatus = some (5, 0x00040006) := by
  decide

/-- V20. -/
theorem test_div : after (block Params.default 1000000007 12345 0) 0x13 (fun t => (t.regR, t.regS, t.status.word)) =
    some (81004, 5627, 0x00000002) := by decide

/-- V21. -/
theorem test_div_zero : after (block Params.default 100 0 0) 0x13 (fun t => (t.regR, t.regS, t.status.word)) =
    some (5, 9, 0x00020006) := by decide

/-- V24. -/
theorem test_mod : after (block Params.default 6832 1 3120) 0x14 resultAndStatus = some (592, 0x00000002) := by decide

/-- V25. -/
theorem test_mod_zero : after (block Params.default 6832 1 0) 0x14 resultAndStatus = some (5, 0x00030006) := by decide

/-- V27. -/
theorem test_cmp_less : after (block Params.default 17 3120 0) 0x15 resultAndStatus = some (5, 0x00000042) := by decide

/-- V29. -/
theorem test_cmp_greater : after (block Params.default 6 5 0) 0x15 resultAndStatus = some (5, 0x00000082) := by decide

/-- V30. -/
theorem test_gcd : after (block Params.default 240 46 0) 0x16 resultAndStatus = some (2, 0x00000002) := by decide

/-- V33. -/
theorem test_gcd_zero : after (block Params.default 0 0 0) 0x16 resultAndStatus = some (0, 0x00000012) := by decide

/-- V41. -/
theorem test_mulmod : after (block Params.default 0xFFFFFFFF 0xFFFFFFFF 0xFFFFFFFB) 0x20 resultAndStatus =
    some (16, 0x00000002) := by decide

/-- V42. -/
theorem test_mulmod_zero : after (block Params.default 3000 2000 0) 0x20 resultAndStatus = some (5, 0x00030006) := by decide

/-- V43. -/
theorem test_montmul : after (block Params.default 3000 2000 3233) 0x21 resultAndStatus = some (1332, 0x00000002) := by
  decide

/-- V49b. -/
theorem test_montmul_range : after (block Params.default 0xFFFFFFFF 0xFFFFFFFF 3233) 0x21 resultAndStatus =
    some (5, 0x00080006) := by decide

/-- V51. -/
theorem test_modexp : after (block Params.default 65 17 3233) 0x22 resultAndStatus = some (2790, 0x00000002) := by decide

/-- V53. -/
theorem test_modexp_zero_exponent : after (block Params.default 0 0 7) 0x22 resultAndStatus = some (1, 0x00000002) := by
  decide

/-- V70. -/
theorem test_bezout : after (block Params.default 240 46 0) 0x30 (fun t => (t.regSX, t.regSY, t.regR, t.status.word)) =
    some (0xFFFFFFFFFFFFFFF7, 0x2F, 2, 0x00000002) := by decide

/-- V77. -/
theorem test_bezout_zero : after (block Params.default 0 0 0) 0x30 (fun t => (t.regSX, t.regSY, t.regR, t.status.word)) =
    some (0, 1, 0, 0x00000012) := by decide

/-- V82. -/
theorem test_modinv : after (block Params.default 65537 1 3120) 0x31 (fun t => (t.regSX, t.regSY, t.regR, t.status.word)) =
    some (0xFFFFFFFFFFFFFE91, 7709, 2753, 0x00000002) := by decide

/-- V85. -/
theorem test_modinv_not_invertible : after (block Params.default 12 1 18) 0x31
    (fun t => (t.regSX, t.regSY, t.regR, t.status.word)) = some (0x12, 0x34, 5, 0x00070006) := by decide

/-- V106. -/
theorem test_primetest_prime : after (block Params.default 1 1 4294967291) 0x40
    (fun t => (t.regR, t.rngcnt, t.rngPos, t.status.word)) = some (1, 3, 3, 0x00000102) := by decide

/-- V103. -/
theorem test_primetest_composite : after (block Params.default 1 1 67591) 0x40
    (fun t => (t.regR, t.rngcnt, t.rngPos, t.status.word)) = some (0, 1, 1, 0x00000012) := by decide

/-- The illegal words of 95_test_vectors.md: nothing is written, the word stays in CMD. -/
theorem test_illegal : ([0x00000003, 0x000000FF, 0x00000110, 0x00000111, 0x00005001, 0x00000501, 0x00010001, 0x00001002,
    0x00000F02, 0x80000000] : List Nat).all (fun w =>
      after (block Params.default 1 2 3) w (fun t => (t.regA, t.regN, t.regR, t.cmd.toNat, t.status.word)) =
        some (1, 3, 5, w, 0x00010006)) = true := by decide

/-! ### The host port -/

/-- V121 to V124. -/
theorem test_window_reads :
    (block Params.default 0x41424344 0 3233).readValue 0xC00 .word = .word 0x00000CA1 ∧
    (block Params.default 0x41424344 0 3233).readValue 0xC03 .byte = .byte 0xA1 ∧
    (block Params.default 0x41424344 0 3233).readValue 0x400 .byte = .byte 0x41 ∧
    (block Params.default 0x41424344 0 3233).readValue 0x404 .word = .word 0 := by decide

/-- V120, V123, V126. -/
theorem test_window_writes :
    (((block Params.default 0 0 0).hostWrite 0xC02 (.byte 0x0C)).hostWrite 0xC03 (.byte 0xA1)).regN = 3233 ∧
    ((block Params.default 0 0 0).hostWrite 0x400 (.word 0x41424344)).regA = 0x41424344 ∧
    (block Params.default 0 0 0).hostWrite 0x1800 (.word 0) = block Params.default 0 0 0 := by decide

/-- V125. -/
theorem test_signed_window :
    ({ block Params.default 0 0 0 with regSX := tc 64 (-9) } : State).readValue 0x1800 .word = .word 0xFFFFFFFF ∧
    ({ block Params.default 0 0 0 with regSX := tc 64 (-9) } : State).readValue 0x1804 .word = .word 0xFFFFFFF7 := by decide

/-- V127 to V130. -/
theorem test_control_reads :
    State.reset.readValue 0x000 .word = .word 0x52534131 ∧ State.reset.readValue 0x004 .word = .word 0x00360020 ∧
    State.reset.readValue 0x00D .byte = .byte 0 ∧ State.reset.readValue 0x402 .word = .word 0 ∧
    State.reset.readValue 0x014 .word = .word 0x00000064 := by decide

/-- V140, V141. -/
theorem test_busy_writes :
    (((inFlight Params.default 65 17 3233 0x22).hostWrite 0x400 (.word 1)).status.word = 0x00000009) ∧
    (((inFlight Params.default 65 17 3233 0x22).hostWrite 0x400 (.word 1)).regA = 65) ∧
    (((inFlight Params.default 65 17 3233 0x22).hostWrite 0x010 (.word 0x10)).cmd = 0x00000022) := by decide

/-- V142. -/
theorem test_soft_reset :
    ((inFlight Params.default 65 17 3233 0x22).hostWrite 0x008 (.word 0x80000000)).status.word = 0 ∧
    ((inFlight Params.default 65 17 3233 0x22).hostWrite 0x008 (.word 0x80000000)).rounds = 100 := by decide

/-- V143. -/
theorem test_clear_status :
    (({ block Params.default 0 0 0 with status := { Status.reset with done := true, busyViol := true } } : State).hostWrite
      0x00C (.word 0x0000000A)).status.word = 0 := by decide

/-- V144. -/
theorem test_interrupt :
    after { block Params.default 1 2 3 with ctrl := { ieDone := true, ieErr := false } } 0x00000000
      (fun t => (t.irq, (t.hostWrite 0x010 (.word 0)).irq)) = some (true, false) := by decide

/-- R103, R104: lines of the programs P1 and P2, a comment and `CLR`. -/
theorem test_assembler :
    assembleLine ['L', 'D', 'I', ' ', 'N', ',', ' ', '#', '3', '2', '3', '3'] = some 0x0CA10202 ∧
    assembleLine ['M', 'O', 'V', ' ', 'B', ',', 'S', ';', 'q'] = some 0x00004101 ∧
    assembleLine ['L', 'D', 'I', ' ', 'A', ',', '#', '0', 'x', '4', '1'] = some 0x00410002 ∧
    assembleLine ['C', 'L', 'R', ' ', 'R'] = some 0x00000302 ∧
    assembleLine ['L', 'D', 'I', ' ', 'A', ',', '#', '6', '5', '5', '3', '6'] = none := by decide

/-! ### Witnesses: for each obligation with hypotheses, inputs that meet them, clause by clause, at the ends of ranges -/

theorem witness_DecodeOfEncode : (Instr.ldi .S 65535).WellFormed := by decide

theorem witness_EncodeOfDecode : decode 0xFFFF0402 = .ok (.ldi .S 65535) := rfl

theorem witness_CommandsAreTheTableRows :
    decode 0x00004401 = .ok (.mov .S .S) ∧
    (⟨0x00000002, 0x0000F0FF, true, false⟩ : OpcodeRow) ∈ opcodeTable ∧
    (⟨0x00000002, 0x0000F0FF, true, false⟩ : OpcodeRow).matchesWord 0xFFFF0402 = true :=
  ⟨rfl, by decide, by decide⟩

/-- The flight of an illegal word; one word for each of the cases (a) to (d), just beyond the legal ones. -/
theorem witness_IllegalWords :
    (inFlight Params.default 1 2 3 0x00000110).status.busy = true ∧
    decode (inFlight Params.default 1 2 3 0x00000110).cmd = .error .unusedFieldSet ∧
    decode 0x00000003 = .error .badOpcode ∧ decode 0x00005001 = .error .badRs ∧ decode 0x00000501 = .error .badRd ∧
    decode 0x00001002 = .error .unusedFieldSet :=
  ⟨rfl, rfl, rfl, rfl, rfl, rfl⟩

theorem witness_StepRunsTheDecodedCommand :
    (inFlight Params.default 65 17 3233 0x22).status.busy = true ∧
    decode (inFlight Params.default 65 17 3233 0x22).cmd = .ok .modexp ∧
    (inFlight Params.default 65 17 3233 0x22).events = [] ∧
    ({ inFlight Params.default 65 17 3233 0x22 with events := [.engine, .reset] } : State).events = .engine :: [.reset] :=
  ⟨rfl, rfl, rfl, rfl⟩

theorem witness_PlacedWordRunsNext : 0xFFFF0402 < 2 ^ 32 ∧ decode (BitVec.ofNat 32 0xFFFF0402) = .ok (.ldi .S 65535) :=
  ⟨by decide, rfl⟩

theorem witness_EngineStepCompletes :
    (inFlight Params.default 1 2 3 0x16).status.busy = true ∧ decode (inFlight Params.default 1 2 3 0x16).cmd = .ok .gcd ∧
    (inFlight Params.default 1 2 3 0x17).status.busy = true ∧
    decode (inFlight Params.default 1 2 3 0x17).cmd = .error .badOpcode ∧
    (inFlight Params.default 1 0 3 0x13).status.busy = true ∧
    (block Params.default 1 2 3).status.busy = false :=
  ⟨rfl, rfl, rfl, rfl, rfl, rfl⟩

/-- The last word of the register space, and accesses one byte outside it on each side. -/
theorem witness_HostAccessStep :
    0x1FFC + Size.word.bytes ≤ 0x2000 ∧ 0x1FFF + (BusData.byte 1).size.bytes ≤ 0x2000 ∧
    tiny.base - 1 < (block tiny 1 2 3).params.base ∧
    (block tiny 1 2 3).params.base + 0x2000 < tiny.base + 0x1FFD + Size.word.bytes ∧
    (block tiny 1 2 3).params.base + 0x2000 < tiny.base + 0x2000 + (BusData.byte 1).size.bytes ∧
    ({ block tiny 1 2 3 with events := [.access (.read 0x3FFC .word)] } : State).events =
      .access (.read ((block tiny 1 2 3).params.base + 0x1FFC) .word) :: [] ∧
    ({ block tiny 1 2 3 with events := [.access (.write 0x3FFF (.byte 1))] } : State).events =
      .access (.write ((block tiny 1 2 3).params.base + 0x1FFF) (.byte 1)) :: [] := by decide

/-- A polled command line in an idle block. -/
theorem witness_CommandLineRuns :
    Instr.modexp.WellFormed ∧ (block Params.default 65 17 3233).status.busy = false ∧
    ({ block Params.default 65 17 3233 with events := commandLine Params.default .modexp 2 ++ [.reset] } : State).events =
      commandLine (block Params.default 65 17 3233).params .modexp 2 ++ [.reset] := ⟨rfl, rfl, rfl⟩

theorem witness_NopResult :
    fieldOpc 0x80000000 = 0x00 ∧ (0x80000000 : Word) ≠ 0x00000000 ∧ (block Params.default 1 2 3).status.busy = false := by
  decide

theorem witness_MovResult :
    fieldOpc 0x00000501 = 0x01 ∧ 4 < (fieldRd 0x00000501).toNat ∧ fieldOpc 0x00005001 = 0x01 ∧
    4 < (fieldRs 0x00005001).toNat ∧ fieldOpc 0x00010001 = 0x01 ∧ fieldImm 0x00010001 ≠ 0 := by decide

/-- The select and the field that must be 0, just beyond the legal ones. -/
theorem witness_LdiResult_illegal :
    fieldOpc 0x00000502 = 0x02 ∧ 4 < (fieldRd 0x00000502).toNat ∧ fieldOpc 0x00001002 = 0x02 ∧ fieldRs 0x00001002 ≠ 0 := by
  decide

theorem witness_LdiResult :
    65535 < 2 ^ (block Params.default 1 2 3).params.width ∧ 255 < 2 ^ (block (wide 8) 1 2 3).params.width ∧
    2 ^ (block (wide 8) 1 2 3).params.width ≤ 256 ∧ (wide 8).Legal ∧ 65535 < 2 ^ 16 ∧ 2 ^ (wide 8).width ≤ 65535 :=
  ⟨by decide, by decide, by decide, legal_wide 8 (by decide) (by decide) (by decide), by decide, by decide⟩

theorem witness_AddResult :
    (block Params.default 0xFFFFFFFF 0 0).regA + (block Params.default 0xFFFFFFFF 0 0).regB < 2 ^ 32 ∧
    2 ^ 32 ≤ (block Params.default 0xFFFFFFFF 1 0).regA + (block Params.default 0xFFFFFFFF 1 0).regB := by decide

theorem witness_SubResult :
    (block Params.default 9 9 0).regB ≤ (block Params.default 9 9 0).regA ∧
    (block Params.default 8 9 0).regA < (block Params.default 8 9 0).regB := by decide

theorem witness_MulResult :
    (block Params.default 65535 65537 0).regA * (block Params.default 65535 65537 0).regB < 2 ^ 32 ∧
    2 ^ 32 ≤ (block Params.default 65536 65536 0).regA * (block Params.default 65536 65536 0).regB := by decide

theorem witness_DivResult : (block Params.default 5 1 0).regB ≠ 0 ∧ (block Params.default 5 0 0).regB = 0 := by decide

theorem witness_ModResult : (block Params.default 5 0 1).regN ≠ 0 ∧ (block Params.default 5 0 0).regN = 0 := by decide

theorem witness_GcdResult : euclidGcd 9 0 = 9 ∧ euclidGcd 240 46 = 2 := by decide

theorem witness_MulmodResult : (block Params.default 5 5 1).regN ≠ 0 ∧ (block Params.default 5 5 0).regN = 0 := by decide

/-- N = 1 with A = B = 0, N = 0, N even, A just below and at N. -/
theorem witness_MontmulResult :
    (block Params.default 0 0 1).regN % 2 = 1 ∧ (block Params.default 0 0 1).regA < (block Params.default 0 0 1).regN ∧
    (block Params.default 3232 3232 3233).regN % 2 = 1 ∧
    (block Params.default 3232 3232 3233).regB < (block Params.default 3232 3232 3233).regN ∧
    (block Params.default 0 0 0).regN = 0 ∧
    (block Params.default 0 0 2).regN ≠ 0 ∧ (block Params.default 0 0 2).regN % 2 = 0 ∧
    (block Params.default 3233 1 3233).regN ≤ (block Params.default 3233 1 3233).regA ∧
    (block Params.default 1 3233 3233).regN ≤ (block Params.default 1 3233 3233).regB := by decide

theorem witness_ModexpResult :
    (block Params.default 65 17 3233).Inv ∧ (block Params.default 65 17 3233).regN ≠ 0 ∧
    (block Params.default 5 0 1).Inv ∧ (block Params.default 5 0 1).regN ≠ 0 ∧
    (block Params.default 3 4 0).Inv ∧ (block Params.default 3 4 0).regN = 0 :=
  ⟨inv_rsa, by decide, block_inv _ _ _ _ legal_default (by decide) (by decide) (by decide), by decide,
    block_inv _ _ _ _ legal_default (by decide) (by decide) (by decide), by decide⟩

/-- The numbers of R158's worked check; N = 1. -/
theorem witness_MontgomeryForm :
    (block Params.default 0 0 1).regN % 2 = 1 ∧ 0 < (block Params.default 0 0 1).regN ∧
    (block Params.default 0 0 1).regA = 0 ∧ (block Params.default 0 0 1).regB = 2 ^ (2 * 32) % 1 ∧
    (block Params.default 65 2029 3233).regN % 2 = 1 ∧ 65 < (block Params.default 65 2029 3233).regN ∧
    1 < (block Params.default 65 2029 3233).regN ∧ (block Params.default 65 2029 3233).regA = 65 ∧
    (block Params.default 65 2029 3233).regB = 2 ^ (2 * (block Params.default 65 2029 3233).params.width) % 3233 ∧
    (block Params.default 716 1 3233).regB = 1 := by decide

/-- The key of P1: p = 61, q = 53, e = 17, d = 2753, m = 65. -/
theorem witness_RsaRoundTrip :
    (block Params.default 65 17 3233).Inv ∧ (block Params.default 2790 2753 3233).Inv ∧ Nat.Prime 61 ∧ Nat.Prime 53 ∧
    61 ≠ 53 ∧ (block Params.default 65 17 3233).regN = 61 * 53 ∧ (block Params.default 2790 2753 3233).regN = 61 * 53 ∧
    (block Params.default 65 17 3233).regB * (block Params.default 2790 2753 3233).regB % ((61 - 1) * (53 - 1)) =
      1 % ((61 - 1) * (53 - 1)) ∧
    65 < 61 * 53 ∧ (block Params.default 65 17 3233).regA = 65 ∧
    (block Params.default 2790 2753 3233).regA = 65 ^ (block Params.default 65 17 3233).regB % (61 * 53) :=
  ⟨inv_rsa, block_inv _ _ _ _ legal_default (by decide) (by decide) (by decide), by norm_num, by norm_num, by decide,
    by decide, by decide, by decide, by decide, by decide, by decide⟩

theorem witness_BezoutRecursion : (17 : Nat) ≠ 0 ∧ bezout 17 3120 = (-367, 2) := by decide

/-- The narrowest width of R172, at its largest operands. -/
theorem witness_BezoutBounds : 2 ≤ 2 ∧ 3 < 2 ^ 2 ∧ 2 < 2 ^ 2 ∧ (3 : Nat) ≠ 0 := by decide

theorem witness_ModinvResult :
    (block Params.default 12 0 0).regN = 0 ∧
    (block Params.default 12 0 18).regN ≠ 0 ∧
    Nat.gcd (block Params.default 12 0 18).regA (block Params.default 12 0 18).regN ≠ 1 ∧
    (block Params.default 0 0 1).regN ≠ 0 ∧
    Nat.gcd (block Params.default 0 0 1).regA (block Params.default 0 0 1).regN = 1 := by decide

theorem witness_EuclidPropertiesAtTheInterface :
    (block Params.default 17 3120 3120).Inv ∧
    (∃ t, exec .bezout (block Params.default 17 3120 3120) = .next t) ∧
    ∃ t, exec .modinv (block Params.default 17 3120 3120) = .next t ∧ t.status.err = none :=
  ⟨block_inv _ _ _ _ legal_default (by decide) (by decide) (by decide), ⟨_, rfl⟩, _, rfl, by decide⟩

/-- Stage (a): 1, a table prime, 4. Stage (b): N = 25 with the table [2, 3], 24 = 3 * 2^3; the first draw, 5, gives the
witness 7, a strong liar (7^6 is -1); the second, 0, the witness 2, which fails. -/
theorem witness_PrimetestResult :
    ((block tiny 0 0 1).Inv ∧ (block tiny 0 0 1).regN < 2) ∧
    ((block tiny 0 0 3).Inv ∧ (block tiny 0 0 3).regN ∈ (block tiny 0 0 3).params.smallPrimes) ∧
    ((block tiny 0 0 4).Inv ∧ (block tiny 0 0 4).regN ∉ (block tiny 0 0 4).params.smallPrimes ∧
      ∃ q ∈ (block tiny 0 0 4).params.smallPrimes, (block tiny 0 0 4).regN % q = 0) ∧
    ({ block tiny 0 0 25 with rounds := 2, rngGiven := [5, 0] } : State).Inv ∧
    Survives { block tiny 0 0 25 with rounds := 2, rngGiven := [5, 0] } ∧ 3 % 2 = 1 ∧ 25 - 1 = 3 * 2 ^ 3 ∧
    RoundPasses { block tiny 0 0 25 with rounds := 2, rngGiven := [5, 0] } 3 3 0 ∧
    ¬ RoundPasses { block tiny 0 0 25 with rounds := 2, rngGiven := [5, 0] } 3 3 1 ∧
    (∀ k, k < (1 : Word).toNat → RoundPasses { block tiny 0 0 25 with rounds := 1, rngGiven := [5, 0] } 3 3 k) := by
  have hi := inv_tiny 25 (by decide)
  refine ⟨⟨inv_tiny 1 (by decide), by decide⟩, ⟨inv_tiny 3 (by decide), by decide⟩,
    ⟨inv_tiny 4 (by decide), by decide, by decide⟩,
    ⟨hi.legal, fun x => by have := hi.general_lt x; cases x <;> exact this, hi.sx_lt, hi.sy_lt, hi.busy_not_done,
      hi.eq_lt, hi.eq_gt, hi.lt_gt⟩, ⟨by decide, by decide⟩, by decide, by decide, .inr ⟨1, by decide, by decide⟩, ?_, ?_⟩
  · rintro (h | ⟨j, hj, h⟩)
    · exact absurd h (by decide)
    · interval_cases j <;> exact absurd h (by decide)
  · intro k hk
    obtain rfl : k = 0 := by simpa using hk
    exact .inr ⟨1, by decide, by decide⟩

theorem witness_StageBCandidates : (block tiny 0 0 5).Inv ∧ Survives (block tiny 0 0 5) ∧ 2 ≤ 3 ∧ 3 ≤ 5 - 2 :=
  ⟨inv_tiny 5 (by decide), ⟨by decide, by decide⟩, by decide, by decide⟩

theorem witness_PrimesPass :
    (block tiny 0 0 5).Inv ∧ (block tiny 0 0 5).regN.Prime ∧ (block tiny 0 0 2).Inv ∧ (block tiny 0 0 2).regN.Prime :=
  ⟨inv_tiny 5 (by decide), (by norm_num : Nat.Prime 5), inv_tiny 2 (by decide), (by norm_num : Nat.Prime 2)⟩

theorem witness_CommandsWriteOnlyListedRegisters :
    (∃ t, exec .div (block Params.default 7 2 0) = .next t) ∧ windowAt 0x0400 ∉ writes .div ∧
    windowAt 0x1FFF ∉ writes .div ∧ (∀ rd rs, Instr.div ≠ .mov rd rs) ∧ (∀ rd imm, Instr.div ≠ .ldi rd imm) ∧
    Instr.div ≠ .primetest :=
  ⟨⟨_, rfl⟩, by decide, by decide, fun _ _ h => (by cases h), fun _ _ h => (by cases h), by decide⟩

/-- Two states that agree on what PRIMETEST reads and differ in A; the test ends without error. -/
theorem witness_CommandsReadOnlyListedRegisters :
    (block Params.default 2 0 67591).params = (block Params.default 1 0 67591).params ∧
    (∀ x ∈ reads .primetest, (block Params.default 2 0 67591).g x = (block Params.default 1 0 67591).g x) ∧
    (block Params.default 2 0 67591).rounds = (block Params.default 1 0 67591).rounds ∧
    (∃ t, exec .primetest (block Params.default 1 0 67591) = .next t ∧ t.status.err = none) ∧
    (∃ t, exec .primetest (block Params.default 2 0 67591) = .next t) := by
  refine ⟨rfl, ?_, rfl, ⟨_, rfl, rfl⟩, ⟨_, rfl⟩⟩
  intro x hx
  simp only [reads, List.mem_singleton] at hx
  subst hx
  rfl

/-- A command with an error and one without; steps that change the flags: CMP, and a reset of a block with Z set. -/
theorem witness_FlagRule :
    (∃ t, exec .div (block Params.default 7 0 0) = .next t ∧ t.status.err ≠ none) ∧
    (∃ t, exec .cmp (block Params.default 7 0 0) = .next t ∧ t.status.err = none) ∧
    (∃ t, step (inFlight Params.default 7 0 0 0x15) = .next t ∧ ¬ SameFlags (inFlight Params.default 7 0 0 0x15) t) ∧
    (∃ t, step { block Params.default 1 2 3 with status := { Status.reset with z := true }, events := [.reset] } = .next t ∧
      t.status.z = false) :=
  ⟨⟨_, rfl, by decide⟩, ⟨_, rfl, by decide⟩, ⟨_, rfl, fun h => absurd h.2.2.2.1 (by decide)⟩, ⟨_, rfl, rfl⟩⟩

theorem witness_ErrorsArePrecise :
    ∃ t, exec .modinv (block Params.default 12 0 18) = .next t ∧ t.status.err = some .notInvertible := ⟨_, rfl, by decide⟩

theorem witness_ErrorCauses :
    (inFlight Params.default 1 2 3 0x00000003).status.busy = true ∧
    (∃ t, (inFlight Params.default 1 2 3 0x00000003).engineTurn = .next t ∧ t.status.err = some .illegalCmd) ∧
    (∃ t, exec .montmul (block Params.default 0 0 0) = .next t ∧ t.status.err = some .modZero) ∧
    (∃ t, exec .montmul (block Params.default 9 9 4) = .next t ∧ t.status.err = some .modEven) ∧
    (∃ t, exec .montmul (block Params.default 9 1 9) = .next t ∧ t.status.err = some .range) :=
  ⟨rfl, ⟨_, rfl, rfl⟩, ⟨_, rfl, by decide⟩, ⟨_, rfl, by decide⟩, ⟨_, rfl, by decide⟩⟩

/-- The register's last byte, the first byte above it, the window's last byte. -/
theorem witness_GeneralWindowBytes :
    (block Params.default 65 17 3233).Inv ∧ (block Params.default 65 17 3233).status.busy = false ∧ 3 < 0x400 ∧
    3 < Params.default.width / 8 ∧ Params.default.width / 8 ≤ 4 ∧ 0x3FF < 0x400 :=
  ⟨inv_rsa, rfl, by decide, by decide, by decide, by decide⟩

theorem witness_SignedWindowBytes :
    (block Params.default 65 17 3233).Inv ∧ (BigReg.sy = .sx ∨ BigReg.sy = .sy) ∧ 7 < 2 * (Params.default.width / 8) ∧
    0x3FF < 0x400 ∧ (block Params.default 65 17 3233).status.busy = false :=
  ⟨inv_rsa, .inr rfl, by decide, by decide, rfl⟩

theorem witness_WordAccessIsFourBytes :
    (block Params.default 65 17 3233).status.busy = false ∧ 0x400 ≤ 0xC00 ∧ 0x1FFC + 4 ≤ 0x2000 ∧ 0x1FFC % 4 = 0 ∧
    (block Params.default 65 17 3233).readValue 0xC00 .byte = .byte 0x00 ∧
    (block Params.default 65 17 3233).readValue 0xC01 .byte = .byte 0x00 ∧
    (block Params.default 65 17 3233).readValue 0xC02 .byte = .byte 0x0C ∧
    (block Params.default 65 17 3233).readValue 0xC03 .byte = .byte 0xA1 := by decide

theorem witness_BadAccesses : 0x3FF < 0x400 ∧ 0x402 % 4 ≠ 0 ∧ 0x00D % 4 ≠ 0 := by decide

theorem witness_WindowRoundTrip :
    ({ block Params.default 65 17 3233 with
        events := wrDirective Params.default .N 0xFFFFFFFF ++ rdDirective Params.default (.gen .N) ++ [.engine] } : State).Inv ∧
    (block Params.default 65 17 3233).status.busy = false ∧ 0xFFFFFFFF < 2 ^ Params.default.width :=
  ⟨⟨inv_rsa.legal, fun x => by have := inv_rsa.general_lt x; cases x <;> exact this, inv_rsa.sx_lt, inv_rsa.sy_lt,
    inv_rsa.busy_not_done, inv_rsa.eq_lt, inv_rsa.eq_gt, inv_rsa.lt_gt⟩, rfl, by decide⟩

theorem witness_ReadOnlyControlRegisters :
    (block Params.default 65 17 3233).Inv ∧ 0x01C ≤ 0x01C ∧ 0x3FC < 0x400 ∧ 0x3FC % 4 = 0 ∧ 0x018 ∈ [0x000, 0x004, 0x018] :=
  ⟨inv_rsa, by decide, by decide, by decide, by decide⟩

theorem witness_CtrlRegister :
    (0x80000003 : Word).getLsbD 31 = true ∧ (0x7FFFFFFF : Word).getLsbD 31 = false := by decide

theorem witness_CmdAndRoundsWrites :
    (block Params.default 1 2 3).status.busy = false ∧ (inFlight Params.default 1 2 3 0x10).status.busy = true := ⟨rfl, rfl⟩

theorem witness_BusyWrites :
    (inFlight Params.default 1 2 3 0x10).status.busy = true ∧ 0x400 ≤ 0x17FC ∧ 0x17FC < 0x1800 ∧ 0x17FC % 4 = 0 ∧
    0x17FF < 0x1800 ∧ (3 : Word).getLsbD 31 = false ∧ 0x01C ≤ 0x01C ∧ 0x1800 ≤ 0x1800 ∧ 0x1FFF < 0x2000 ∧ 0x3FF < 0x400 ∧
    0x401 % 4 ≠ 0 := by decide

/-- Two blocks in flight whose registers and commands differ. -/
theorem witness_BusyReads :
    (inFlight Params.default 65 17 3233 0x22).status.busy = true ∧ (inFlight Params.default 1 2 67591 0x40).status.busy = true ∧
    (inFlight Params.default 1 2 67591 0x40).freeCtr = (inFlight Params.default 65 17 3233 0x22).freeCtr ∧
    0x400 ≤ 0x1FFF := by decide

theorem witness_ReadsHaveNoSideEffect : (block Params.default 1 2 3).status.busy = false := rfl

/-- A lost operand write, a lost command and a cleared status bit while MODEXP is in flight. -/
theorem witness_OperandsStableWhileBusy :
    (inFlight Params.default 65 17 3233 0x22).status.busy = true ∧
    (∀ e ∈ [hostWriteAt Params.default 0x400 (.word 1), hostWriteAt Params.default 0x010 (.word 0x10),
      hostWriteAt Params.default 0x008 (.word 0x7FFFFFFF)], Harmless Params.default e) ∧
    (∃ t, Sys2Proof.core.run 3 ({ inFlight Params.default 65 17 3233 0x22 with
      events := [hostWriteAt Params.default 0x400 (.word 1), hostWriteAt Params.default 0x010 (.word 0x10),
        hostWriteAt Params.default 0x008 (.word 0x7FFFFFFF), .engine] } : State) = .next t ∧
        t.status.word = 0x00000009) := by
  refine ⟨rfl, ?_, ⟨_, rfl, by decide⟩⟩
  intro e he
  simp only [List.mem_cons, List.not_mem_nil, or_false] at he
  rcases he with rfl | rfl | rfl <;> (show ¬ _) <;> decide

theorem witness_ResetEvent :
    ({ block Params.default 1 2 3 with events := [.reset] } : State).status.busy = false ∧
    ({ inFlight Params.default 1 2 67591 0x40 with events := [.reset] } : State).status.busy = true ∧
    ({ inFlight Params.default 1 2 67591 0x40 with events := [.reset] } : State).events = .reset :: [] ∧
    (block Params.default 7 8 9).params = (block Params.default 1 2 3).params ∧
    (block Params.default 7 8 9).freeCtr = (block Params.default 1 2 3).freeCtr := ⟨rfl, rfl, rfl, rfl, rfl⟩

theorem witness_StepKeepsInv :
    (block Params.default 65 17 3233).Inv ∧ ∃ t, step (block Params.default 65 17 3233) = .next t := ⟨inv_rsa, _, rfl⟩

theorem witness_StepKeepsParams : ∃ t, step (inFlight Params.default 1 2 3 0x40) = .next t := ⟨_, rfl⟩

/-- ERRS set before a step that keeps it, before a reset, and before the write that clears it. -/
theorem witness_ErrsIsSticky :
    ({ block Params.default 1 2 3 with status := { Status.reset with errs := true } } : State).status.errs = true ∧
    (∃ t, step ({ block Params.default 1 2 3 with status := { Status.reset with errs := true } } : State) = .next t ∧
      t.status.errs = true) ∧
    (∃ t, step ({ block Params.default 1 2 3 with
      status := { Status.reset with errs := true }, events := [hostWriteAt Params.default 0x00C (.word 4)] } : State) =
        .next t ∧ t.status.errs = false) := ⟨rfl, ⟨_, rfl, rfl⟩, ⟨_, rfl, by decide⟩⟩

theorem witness_CmdHoldsAcceptedWord :
    ∃ t, step ({ block Params.default 1 2 3 with events := [hostWriteAt Params.default 0x010 (.word 0x22)] } : State) =
      .next t ∧ t.cmd = 0x22 := ⟨_, rfl, by decide⟩

theorem witness_RngcntCountsDraws :
    NextIsReset { block Params.default 1 2 3 with events := [hostWriteAt Params.default 0x008 (.word 0x80000000)] } ∧
    ¬ NextIsReset (inFlight Params.default 1 2 67591 0x40) ∧
    (∃ t, step (inFlight Params.default 1 2 67591 0x40) = .next t ∧
      t.rngPos ≠ (inFlight Params.default 1 2 67591 0x40).rngPos) ∧
    NextIsWordWrite { inFlight Params.default 1 2 67591 0x40 with events := [hostWriteAt Params.default 0x018 (.word 7)] }
      0x018 7 ∧
    ∃ t, step { inFlight Params.default 1 2 67591 0x40 with events := [hostWriteAt Params.default 0x018 (.word 7)] } =
      .next t := by
  refine ⟨.inr ⟨0x80000000, by decide, [], rfl⟩, ?_, ⟨_, rfl, by decide⟩, ⟨[], rfl⟩, ⟨_, rfl⟩⟩
  rintro (⟨rest, h⟩ | ⟨v, _, rest, h⟩) <;> cases h

theorem witness_InterruptLevel :
    (∃ t, exec .div ({ block Params.default 1 0 3 with ctrl := { ieDone := true, ieErr := true } } : State) = .next t ∧
      t.status.err ≠ none) ∧ (block Params.default 1 2 3).status.busy = false := ⟨⟨_, rfl, by decide⟩, rfl⟩

end Sys2Proof.Tests
end

section
/-! SUPPORT. What a command can do to the state, said once: the big registers, the flags and the draws. -/

namespace Sys2Proof.Proofs

open Sys2Proof.Machine Sys2Proof.Claims

/-! ### The big registers of an updated state -/

variable (s : State)

@[simp] theorem big_setG (x : GReg) (v : Nat) (y : BigReg) :
    (s.setG x v).big y = if y = .gen x then v else s.big y := by
  cases y <;> simp [State.big]

@[simp] theorem big_writeResult (v : Nat) (y : BigReg) :
    (s.writeResult v).big y = if y = .gen .R then v else s.big y := by
  cases y <;> simp [State.big]

@[simp] theorem big_flagCompare (a b : Nat) (y : BigReg) : (s.flagCompare a b).big y = s.big y := by
  cases y <;> simp [State.big]

@[simp] theorem big_flagPrime (r : Bool) (y : BigReg) : (s.flagPrime r).big y = s.big y := by
  cases y <;> simp [State.big]

@[simp] theorem big_takeDraws (n : Nat) (y : BigReg) : (s.takeDraws n).big y = s.big y := by
  cases y <;> simp [State.big]

@[simp] theorem big_complete (err : Option CmdError) (y : BigReg) : (s.complete err).big y = s.big y := by
  cases y <;> simp [State.big]

@[simp] theorem big_setSigned (v w : Int) (y : BigReg) :
    (s.setSigned v w).big y =
      if y = .sx then tc (2 * s.params.width) v else if y = .sy then tc (2 * s.params.width) w else s.big y := by
  cases y <;> simp [State.big]

/-- A window byte shows only the parameters and the register of its window. -/
theorem windowByte_congr (t : State) (off : Nat) (hp : t.params = s.params)
    (hb : t.big (windowAt off) = s.big (windowAt off)) : t.windowByte off = s.windowByte off := by
  unfold State.windowByte
  rw [hp, hb]

/-! ### The effect of a command that ends without error -/

/-- The state `u` that command `i` leaves of `s`, before the completion's record, when it raises no error. -/
inductive CommandEffect (s : State) : Instr → State → Prop
  | nop : CommandEffect s .nop s
  | mov (rd rs : GReg) : CommandEffect s (.mov rd rs) (s.setG rd (s.g rs))
  | ldi (rd : GReg) (imm : Nat) : CommandEffect s (.ldi rd imm) (s.setG rd imm)
  | cmp : CommandEffect s .cmp (s.flagCompare s.regA s.regB)
  /-- a command whose one register is R -/
  | result (i : Instr) (v : Nat) (hw : writes i = [.gen .R]) (hz : writesZ i = true) (hp : i ≠ .primetest) :
      CommandEffect s i (s.writeResult v)
  | div (q r : Nat) : CommandEffect s .div ((s.writeResult q).setG .S r)
  /-- BEZOUT and MODINV -/
  | euclid (i : Instr) (v w : Int) (r : Nat) (hi : i = .bezout ∨ i = .modinv) :
      CommandEffect s i ((s.setSigned v w).writeResult r)
  | primetest : CommandEffect s .primetest
      (((s.takeDraws s.primeTest.2).writeResult (if s.primeTest.1 then 1 else 0)).flagPrime s.primeTest.1)

/-- How a command that may raise an error ends: the error's record alone, or an effect. -/
inductive CommandEnd (s : State) (i : Instr) : Except CmdError State → Prop
  | error (e : CmdError) : CommandEnd s i (.error e)
  | ok {u : State} (h : CommandEffect s i u) : CommandEnd s i (.ok u)

theorem CommandEnd.check {s : State} {i : Instr} {c : Prop} [Decidable c] (e : CmdError) {r : Except CmdError State}
    (h : CommandEnd s i r) : CommandEnd s i (if c then .error e else r) := by
  split
  · exact .error e
  · exact h

theorem CommandEnd.result {s : State} {i : Instr} (v : Nat) (hw : writes i = [.gen .R] := by rfl)
    (hz : writesZ i = true := by rfl) (hp : i ≠ .primetest := by decide) : CommandEnd s i (.ok (s.writeResult v)) :=
  .ok (.result i v hw hz hp)

/-- Every command concludes with an error or with its effect. -/
theorem exec_eq_conclude (i : Instr) : ∃ r, exec i s = .next (s.conclude r) ∧ CommandEnd s i r := by
  cases i with
  | nop => exact ⟨_, rfl, .ok .nop⟩
  | mov rd rs => exact ⟨_, rfl, .ok (.mov rd rs)⟩
  | ldi rd imm => exact ⟨_, rfl, .check _ (.ok (.ldi rd imm))⟩
  | add => exact ⟨_, rfl, .check _ (.result _)⟩
  | sub => exact ⟨_, rfl, .check _ (.result _)⟩
  | mul => exact ⟨_, rfl, .check _ (.result _)⟩
  | div => exact ⟨_, rfl, .check _ (.ok (.div _ _))⟩
  | mod => exact ⟨_, rfl, .check _ (.result _)⟩
  | cmp => exact ⟨_, rfl, .ok .cmp⟩
  | gcd => exact ⟨_, rfl, .result _⟩
  | mulmod => exact ⟨_, rfl, .check _ (.result _)⟩
  | montmul => exact ⟨_, rfl, .check _ (.check _ (.check _ (.result _)))⟩
  | modexp => exact ⟨_, rfl, .check _ (.result _)⟩
  | bezout => exact ⟨_, rfl, .ok (.euclid _ _ _ _ (.inl rfl))⟩
  | modinv => exact ⟨_, rfl, .check _ (.check _ (.ok (.euclid _ _ _ _ (.inr rfl))))⟩
  | primetest => exact ⟨_, rfl, .ok .primetest⟩

/-- What a command that answers `t` did: it erred and left its record only, or it had its effect. -/
theorem exec_inversion {i : Instr} {s t : State} (h : exec i s = .next t) :
    (∃ e, t = s.complete (some e)) ∨ ∃ u, CommandEffect s i u ∧ t = u.complete none := by
  obtain ⟨r, hr, hend⟩ := exec_eq_conclude s i
  obtain rfl : s.conclude r = t := by rw [hr] at h; injection h
  cases hend with
  | error e => exact .inl ⟨e, rfl⟩
  | ok hu => exact .inr ⟨_, hu, rfl⟩

/-! ### Registers and draws -/

variable {s} {i : Instr} {u : State}

theorem CommandEffect.sameBig (h : CommandEffect s i u) : SameBig s u (writes i) := by
  intro x hx
  cases h with
  | nop => rfl
  | cmp => simp
  | mov rd rs => simp_all [writes]
  | ldi rd imm => simp_all [writes]
  | result _ v hw hz hp => simp_all
  | div q r => simp_all [writes]
  | euclid _ v w r hi => obtain rfl | rfl := hi <;> simp_all [writes]
  | primetest => simp_all [writes]

theorem CommandEffect.sameDraws (h : CommandEffect s i u) (hi : i ≠ .primetest) : SameDraws s u := by
  cases h with
  | primetest => exact absurd rfl hi
  | _ => simp [SameDraws]

theorem CommandEffect.sameControl (h : CommandEffect s i u) : SameControl s u := by
  cases h <;> simp [SameControl]

/-- Only a register that MOV or LDI names as its destination can be A, B or N. -/
theorem operand_not_mem_writes {x : GReg} (hx : x = .A ∨ x = .B ∨ x = .N) (hmov : ∀ rd rs, i ≠ .mov rd rs)
    (hldi : ∀ rd imm, i ≠ .ldi rd imm) : BigReg.gen x ∉ writes i := by
  cases i with
  | mov rd rs => exact absurd rfl (hmov rd rs)
  | ldi rd imm => exact absurd rfl (hldi rd imm)
  | _ => obtain rfl | rfl | rfl := hx <;> decide

variable {t : State}

theorem exec_sameBig (h : exec i s = .next t) : SameBig s t (writes i) := by
  obtain ⟨e, rfl⟩ | ⟨u, hu, rfl⟩ := exec_inversion h
  · intro x _
    simp
  · intro x hx
    simpa using hu.sameBig x hx

theorem exec_sameControl (h : exec i s = .next t) : SameControl s t := by
  obtain ⟨e, rfl⟩ | ⟨u, hu, rfl⟩ := exec_inversion h
  · simp [SameControl]
  · simpa [SameControl] using hu.sameControl

theorem exec_sameDraws (h : exec i s = .next t) (hi : i ≠ .primetest) : SameDraws s t := by
  obtain ⟨e, rfl⟩ | ⟨u, hu, rfl⟩ := exec_inversion h
  · simp [SameDraws]
  · simpa [SameDraws] using hu.sameDraws hi

/-- Settles O34: each effect of `CommandEffect` stays inside R22's row for its command, and an error has none. -/
theorem commandsWriteOnlyListedRegisters : Obligations.CommandsWriteOnlyListedRegisters := by
  unfold Obligations.CommandsWriteOnlyListedRegisters
  intro i s t h
  have hbig := exec_sameBig h
  have hctl := exec_sameControl h
  refine ⟨hbig, hctl, exec_sameDraws h, fun off _ _ hoff => ?_, fun hmov hldi => ?_⟩
  · exact windowByte_congr s t off hctl.1 (hbig _ hoff)
  · have keep : ∀ x : GReg, x = .A ∨ x = .B ∨ x = .N → t.g x = s.g x := fun x hx =>
      hbig (.gen x) (operand_not_mem_writes hx hmov hldi)
    exact ⟨keep .A (by simp), keep .B (by simp), keep .N (by simp)⟩

end Sys2Proof.Proofs
end

section
/-! SUPPORT. The flags a command writes, and what of the state it reads. -/

namespace Sys2Proof.Proofs

open Sys2Proof.Machine Sys2Proof.Claims

/-! ### The flags a command writes (R28) -/

section Flags

variable {s u : State} {i : Instr}

theorem CommandEffect.z (h : CommandEffect s i u) :
    if writesZ i then (u.status.z = true ↔ u.regR = 0) else u.status.z = s.status.z := by
  cases h with
  | result _ v hw hz hp => simp [hz]
  | euclid _ v w r hi => obtain rfl | rfl := hi <;> simp [writesZ]
  | _ => simp [writesZ]

theorem CommandEffect.comparison (h : CommandEffect s i u) :
    if i = .cmp then (u.status.eq = true ↔ s.regA = s.regB) ∧ (u.status.lt = true ↔ s.regA < s.regB) ∧
        (u.status.gt = true ↔ s.regB < s.regA)
      else u.status.eq = s.status.eq ∧ u.status.lt = s.status.lt ∧ u.status.gt = s.status.gt := by
  cases h with
  | result _ v hw hz hp =>
    have hc : i ≠ .cmp := by rintro rfl; cases hz
    simp [hc]
  | euclid _ v w r hi => obtain rfl | rfl := hi <;> simp
  | _ => simp

theorem CommandEffect.prime (h : CommandEffect s i u) :
    if i = .primetest then u.status.prime = s.primeTest.1 else u.status.prime = s.status.prime := by
  cases h with
  | result _ v hw hz hp => simp [hp]
  | euclid _ v w r hi => obtain rfl | rfl := hi <;> simp
  | _ => simp

theorem sameFlags_complete (err : Option CmdError) : SameFlags s (s.complete err) := by
  simp [SameFlags, SameFlagsButZ]

/-- A completion in error leaves the flags, any other writes those of R28's table. -/
theorem exec_flags {t : State} (h : exec i s = .next t) :
    (t.status.err ≠ none ∧ SameFlags s t) ∨
    (t.status.err = none ∧ ∃ u, CommandEffect s i u ∧ t = u.complete none) := by
  obtain ⟨e, rfl⟩ | ⟨u, hu, rfl⟩ := exec_inversion h
  · exact .inl ⟨by simp, sameFlags_complete _⟩
  · exact .inr ⟨by simp, u, hu, rfl⟩

end Flags

/-! ### What a command reads (R22) -/

theorem rngAt_congr {s s' : State} (hp : s'.params = s.params) (hgiven : s'.rngGiven = s.rngGiven) (pos : Nat) :
    s'.rngAt pos = s.rngAt pos := by
  unfold State.rngAt State.bound
  rw [hp, hgiven]

/-- Stage (b) of R186 depends on the parameters and the draws only. -/
theorem millerRabin_congr {s s' : State} (hp : s'.params = s.params) (hpos : s'.rngPos = s.rngPos)
    (hgiven : s'.rngGiven = s.rngGiven) (n d r : Nat) :
    ∀ k used, millerRabin s' n d r k used = millerRabin s n d r k used
  | 0, _ => rfl
  | k + 1, used => by
    simp only [millerRabin, rngAt_congr hp hgiven, hp, hpos, millerRabin_congr hp hpos hgiven n d r k]

theorem primeTest_congr {s s' : State} (hp : s'.params = s.params) (hn : s'.regN = s.regN)
    (hr : s'.rounds = s.rounds) (hpos : s'.rngPos = s.rngPos) (hgiven : s'.rngGiven = s.rngGiven) :
    s'.primeTest = s.primeTest := by
  simp only [State.primeTest, isProbablePrime, hp, hn, hr, millerRabin_congr hp hpos hgiven]

/-- `s'` holds what command `i` reads in `s`: its registers of R22, and for PRIMETEST also ROUNDS and the draws. -/
structure SameInputs (i : Instr) (s s' : State) : Prop where
  params : s'.params = s.params
  regs : ∀ x ∈ reads i, s'.g x = s.g x
  test : i = .primetest → s'.rounds = s.rounds ∧ s'.rngPos = s.rngPos ∧ s'.rngGiven = s.rngGiven

/-- Two ends of command `i` with the same error, or with the same values in all that the command writes. -/
inductive SameEnd (i : Instr) : Except CmdError State → Except CmdError State → Prop
  | error (e : CmdError) : SameEnd i (.error e) (.error e)
  | ok {u u' : State} (big : ∀ x ∈ writes i, u'.big x = u.big x) (z : writesZ i = true → u'.status.z = u.status.z)
      (comparison : i = .cmp →
        u'.status.eq = u.status.eq ∧ u'.status.lt = u.status.lt ∧ u'.status.gt = u.status.gt)
      (test : i = .primetest → u'.status.prime = u.status.prime ∧ u'.rngPos = u.rngPos) :
      SameEnd i (.ok u) (.ok u')

theorem SameEnd.check {i : Instr} {c : Prop} [Decidable c] (e : CmdError) {r r' : Except CmdError State}
    (h : SameEnd i r r') : SameEnd i (if c then .error e else r) (if c then .error e else r') := by
  split
  · exact .error e
  · exact h

theorem SameEnd.result {i : Instr} (s s' : State) (v : Nat) (hw : writes i = [.gen .R] := by rfl)
    (hc : i ≠ .cmp := by decide) (hp : i ≠ .primetest := by decide) :
    SameEnd i (.ok (s.writeResult v)) (.ok (s'.writeResult v)) :=
  .ok (by simp [hw]) (by simp) (fun h => absurd h hc) (fun h => absurd h hp)

theorem SameEnd.euclid {i : Instr} (s s' : State) (v w : Int) (r : Nat) (hparams : s'.params = s.params)
    (hw : writes i = [.gen .R, .sx, .sy] := by rfl) (hc : i ≠ .cmp := by decide)
    (hp : i ≠ .primetest := by decide) :
    SameEnd i (.ok ((s.setSigned v w).writeResult r)) (.ok ((s'.setSigned v w).writeResult r)) :=
  .ok (by simp [hw, hparams]) (by simp) (fun h => absurd h hc) (fun h => absurd h hp)

/-- R22: a command ends as what it reads says, whatever else the state holds. -/
theorem exec_congr {i : Instr} {s s' : State} (h : SameInputs i s s') :
    ∃ r r', exec i s = .next (s.conclude r) ∧ exec i s' = .next (s'.conclude r') ∧ SameEnd i r r' := by
  have hbound : s'.bound = s.bound := congrArg Params.bound h.params
  have hA (hx : .A ∈ reads i) : s'.regA = s.regA := h.regs .A hx
  have hB (hx : .B ∈ reads i) : s'.regB = s.regB := h.regs .B hx
  have hN (hx : .N ∈ reads i) : s'.regN = s.regN := h.regs .N hx
  have hparams := h.params
  cases i with
  | nop => exact ⟨_, _, rfl, rfl, .ok (by simp [writes]) (by simp [writesZ]) (by simp) (by simp)⟩
  | mov rd rs =>
    have hrs : s'.g rs = s.g rs := h.regs rs (by simp [reads])
    exact ⟨_, _, rfl, rfl, .ok (by simp [writes, hrs]) (by simp [writesZ]) (by simp) (by simp)⟩
  | ldi rd imm =>
    refine ⟨_, _, rfl, rfl, ?_⟩
    rw [hbound]
    exact .check _ (.ok (by simp [writes]) (by simp [writesZ]) (by simp) (by simp))
  | add =>
    refine ⟨_, _, rfl, rfl, ?_⟩
    rw [hbound, hA (by decide), hB (by decide)]
    exact .check _ (.result _ _ _)
  | sub =>
    refine ⟨_, _, rfl, rfl, ?_⟩
    rw [hA (by decide), hB (by decide)]
    exact .check _ (.result _ _ _)
  | mul =>
    refine ⟨_, _, rfl, rfl, ?_⟩
    rw [hbound, hA (by decide), hB (by decide)]
    exact .check _ (.result _ _ _)
  | div =>
    refine ⟨_, _, rfl, rfl, ?_⟩
    rw [hA (by decide), hB (by decide)]
    exact .check _ (.ok (by simp [writes]) (by simp) (by simp) (by simp))
  | mod =>
    refine ⟨_, _, rfl, rfl, ?_⟩
    rw [hN (by decide), hA (by decide)]
    exact .check _ (.result _ _ _)
  | cmp =>
    refine ⟨_, _, rfl, rfl, ?_⟩
    rw [hA (by decide), hB (by decide)]
    exact .ok (by simp [writes]) (by simp [writesZ]) (by simp) (by simp)
  | gcd =>
    refine ⟨_, _, rfl, rfl, ?_⟩
    rw [hA (by decide), hB (by decide)]
    exact .result _ _ _
  | mulmod =>
    refine ⟨_, _, rfl, rfl, ?_⟩
    rw [hN (by decide), hA (by decide), hB (by decide)]
    exact .check _ (.result _ _ _)
  | montmul =>
    refine ⟨_, _, rfl, rfl, ?_⟩
    rw [hparams, hN (by decide), hA (by decide), hB (by decide)]
    exact .check _ (.check _ (.check _ (.result _ _ _)))
  | modexp =>
    refine ⟨_, _, rfl, rfl, ?_⟩
    rw [hparams, hN (by decide), hA (by decide), hB (by decide)]
    exact .check _ (.result _ _ _)
  | bezout =>
    refine ⟨_, _, rfl, rfl, ?_⟩
    rw [hA (by decide), hB (by decide)]
    exact .euclid _ _ _ _ _ hparams
  | modinv =>
    refine ⟨_, _, rfl, rfl, ?_⟩
    rw [hN (by decide), hA (by decide)]
    exact .check _ (.check _ (.euclid _ _ _ _ _ hparams))
  | primetest =>
    obtain ⟨hr, hpos, hgiven⟩ := h.test rfl
    have hv := primeTest_congr hparams (hN (by decide)) hr hpos hgiven
    exact ⟨_, _, rfl, rfl, .ok (by simp [writes, hv]) (by simp [hv]) (by simp) (by simp [hv, hpos])⟩

end Sys2Proof.Proofs
end

section
/-! SUPPORT. What a step can do to the flags and the draws: the engine's turn, a reset, an access that is no reset. -/

namespace Sys2Proof.Proofs

open Sys2Proof.Machine Sys2Proof.Claims

/-! ### The host's accesses -/

/-- A scheduled word write to a control register is that register's write. -/
theorem step_of_wordWrite {s : State} {v : Word} (r : CReg) (h : NextIsWordWrite s r.offset v) :
    step s = .next (({ s with events := s.events.tail } : State).writeCreg r v) := by
  obtain ⟨rest, hev⟩ := h
  have hoff : busOffset s.params (s.params.base + r.offset) (BusData.word v).size = some r.offset :=
    busOffset_inside _ _ _ (by cases r <;> simp [BusData.size, Size.bytes, CReg.offset, Config.spaceSize])
  rw [step_of_cons s _ rest hev, hev]
  simp only [State.runEvent, State.hostAccess, hoff, hostWrite_creg, List.tail_cons]

theorem writeCreg_ctrl_srst (s : State) (v : Word) (h : v.getLsbD 31 = true) : s.writeCreg .ctrl v = s.resetEvent :=
  if_pos h

theorem writeCreg_ctrl_store (s : State) (v : Word) (h : v.getLsbD 31 = false) :
    s.writeCreg .ctrl v = { s with ctrl := Ctrl.ofWord v } :=
  if_neg (Bool.eq_false_iff.1 h)

/-- Both resets are the reset event. -/
theorem step_of_nextIsReset {s : State} (h : NextIsReset s) :
    step s = .next ({ s with events := s.events.tail } : State).resetEvent := by
  obtain ⟨rest, hev⟩ | ⟨v, hv, hw⟩ := h
  · rw [step_of_cons s _ rest hev, hev]
    rfl
  · rw [step_of_wordWrite .ctrl hw, writeCreg_ctrl_srst _ v hv]

/-- A host write that is no soft reset touches neither the flags nor the draws. -/
theorem writeEffect_sameFlags_sameDraws {s t : State} {off : Nat} {data : BusData} (h : WriteEffect s off data t)
    (hsoft : ∀ v : Word, off = 0x008 → data = .word v → v.getLsbD 31 = false) :
    SameFlags s t ∧ SameDraws s t := by
  cases h with
  | softReset v hoff hdata hv => exact absurd hv (Bool.eq_false_iff.1 (hsoft v hoff hdata))
  | window x v _ _ _ _ => simp [SameFlags, SameFlagsButZ, SameDraws]
  | _ => exact ⟨⟨rfl, rfl, rfl, rfl, rfl⟩, rfl, rfl⟩

/-- A step is the engine's turn, a reset, or an access that touches neither the flags nor the draws. -/
theorem step_inversion {s t : State} (h : step s = .next t) :
    ((s.events = [] ∨ s.events.head? = some .engine) ∧
      ({ s with events := s.events.tail } : State).engineTurn = .next t) ∨
    (NextIsReset s ∧ t = ({ s with events := s.events.tail } : State).resetEvent) ∨
    (SameFlags s t ∧ SameDraws s t) := by
  by_cases hreset : NextIsReset s
  · rw [step_of_nextIsReset hreset] at h
    injection h with h
    exact .inr (.inl ⟨hreset, h.symm⟩)
  obtain ⟨hev, u, rfl, ht⟩ | ⟨u, a, rest, hev, rfl, ht⟩ | ⟨u, rest, hev, -, -⟩ := step_cases s t h
  · exact .inl ⟨hev, ht⟩
  · obtain ⟨addr, size, off, -, -, rfl⟩ | ⟨addr, data, off, rfl, hoff, rfl⟩ := hostAccess_cases _ t a ht
    · exact .inr (.inr ⟨⟨rfl, rfl, rfl, rfl, rfl⟩, rfl, rfl⟩)
    · refine .inr (.inr (writeEffect_sameFlags_sameDraws (s := { s with events := rest }) (hostWrite_effect _ off data)
        fun v h8 hv => ?_))
      obtain ⟨rfl, -⟩ := busOffset_eq_some _ _ _ _ hoff
      subst h8 hv
      by_contra hb
      exact hreset (.inr ⟨v, by simpa using hb, rest, hev⟩)
  · exact absurd (.inl ⟨rest, hev⟩) hreset

/-! ### The flags -/

/-- From two states that hold the same in the big registers and show the command the same inputs, it leaves the same big
registers, error and draws: what else the states hold, the flags among it, has no say. -/
theorem exec_sameRegisters {i : Instr} {s s' t : State} (hin : SameInputs i s s') (hbig : SameBig s s' [])
    (hpos : s'.rngPos = s.rngPos) (h : exec i s = .next t) :
    ∃ t', exec i s' = .next t' ∧ (∀ x, t'.big x = t.big x) ∧ t'.status.err = t.status.err ∧
      t'.rngPos = t.rngPos := by
  obtain ⟨r, r', hr, hr', hend⟩ := exec_congr hin
  obtain rfl : s.conclude r = t := by rw [hr] at h; injection h
  refine ⟨_, hr', ?_⟩
  cases hend with
  | error e => exact ⟨fun x => by simpa [conclude_error] using hbig x (by simp), rfl, hpos⟩
  | @ok u u' hwritten _ _ htest =>
    refine ⟨fun x => ?_, rfl, ?_⟩
    · by_cases hx : x ∈ writes i
      · simpa [conclude_ok] using hwritten x hx
      · exact (exec_sameBig hr' x hx).trans ((hbig x (by simp)).trans (exec_sameBig hr x hx).symm)
    · by_cases hi : i = .primetest
      · exact (htest hi).2
      · exact (exec_sameDraws hr' hi).1.trans (hpos.trans (exec_sameDraws hr hi).1.symm)

/-- The engine's turn changes a flag only by completing a legal command without error. -/
theorem engineTurn_flags {s t : State} (h : s.engineTurn = .next t) :
    SameFlags s t ∨ (s.status.busy = true ∧ t.status.err = none ∧ ∃ i, decode s.cmd = .ok i) := by
  obtain ⟨-, rfl⟩ | ⟨hb, i, hd, hx⟩ | ⟨-, r, -, rfl⟩ := engineTurn_cases s t h
  · exact .inl ⟨rfl, rfl, rfl, rfl, rfl⟩
  · obtain ⟨-, hsame⟩ | ⟨herr, -⟩ := exec_flags hx
    · exact .inl hsame
    · exact .inr ⟨hb, herr, i, hd⟩
  · exact .inl (sameFlags_complete _)

/-- Settles O36: the values from the command's effect, the independence from `exec_congr`, the step rule from
`step_inversion`. -/
theorem flagRule : Obligations.FlagRule := by
  unfold Obligations.FlagRule
  refine ⟨fun i s t h => ?_, fun i s t z eq lt gt prime h => ?_, fun s t h hne => ?_⟩
  · obtain ⟨herr, hsame⟩ | ⟨herr, u, hu, rfl⟩ := exec_flags h
    · exact ⟨fun _ => hsame, fun h0 => absurd h0 herr⟩
    · refine ⟨fun h0 => absurd herr h0, fun _ => ⟨?_, ?_, ?_⟩⟩
      · simpa using hu.z
      · simpa using hu.comparison
      · simpa using hu.prime
  · have hin : SameInputs i s
        { s with status := { s.status with z := z, eq := eq, lt := lt, gt := gt, prime := prime } } :=
      ⟨rfl, fun _ _ => rfl, fun _ => ⟨rfl, rfl, rfl⟩⟩
    exact exec_sameRegisters hin (fun x _ => by cases x <;> rfl) rfl h
  · obtain ⟨hev, ht⟩ | ⟨hreset, rfl⟩ | ⟨hsame, -⟩ := step_inversion h
    · obtain hsame | ⟨hb, herr, hd⟩ := engineTurn_flags ht
      · exact absurd hsame hne
      · exact .inl ⟨hb, hev, herr, hd⟩
    · exact .inr ⟨hreset, rfl, rfl, rfl, rfl, rfl⟩
    · exact absurd hsame hne

/-! ### The draws -/

/-- `n` draws were made from `s` to `t`, and RNGCNT counts them (R38). -/
def Draws (s t : State) (n : Nat) : Prop := t.rngPos = s.rngPos + n ∧ t.rngcnt = s.rngcnt + BitVec.ofNat 32 n

theorem draws_zero_of_sameDraws {s t : State} (h : SameDraws s t) : Draws s t 0 :=
  ⟨h.1, h.2.trans (BitVec.add_zero _).symm⟩

/-- Only by completing a PRIMETEST does the engine's turn draw. -/
theorem engineTurn_draws {s t : State} (h : s.engineTurn = .next t) :
    ∃ n, Draws s t n ∧ (n ≠ 0 → s.status.busy = true ∧ decode s.cmd = .ok .primetest ∧ t.status.busy = false) := by
  obtain ⟨-, rfl⟩ | ⟨hb, i, hd, hx⟩ | ⟨-, r, -, rfl⟩ := engineTurn_cases s t h
  · exact ⟨0, draws_zero_of_sameDraws ⟨rfl, rfl⟩, by simp⟩
  · by_cases hi : i = .primetest
    · subst hi
      injection hx with hx
      subst hx
      exact ⟨s.primeTest.2, ⟨rfl, rfl⟩, fun _ => ⟨hb, hd, rfl⟩⟩
    · exact ⟨0, draws_zero_of_sameDraws (exec_sameDraws hx hi), by simp⟩
  · exact ⟨0, draws_zero_of_sameDraws ⟨rfl, rfl⟩, by simp⟩

/-- A step that is no reset draws only by completing a PRIMETEST. -/
theorem step_draws {s t : State} (h : step s = .next t) (hreset : ¬ NextIsReset s) :
    ∃ n, Draws s t n ∧ (n ≠ 0 → s.status.busy = true ∧ decode s.cmd = .ok .primetest ∧ t.status.busy = false) := by
  obtain ⟨-, ht⟩ | ⟨hreset', -⟩ | ⟨-, hd⟩ := step_inversion h
  · have hdraws := engineTurn_draws ht
    exact hdraws
  · exact absurd hreset' hreset
  · exact ⟨0, draws_zero_of_sameDraws hd, by simp⟩

/-- Settles O59: `step_draws` counts the draws of a step that is no reset; a reset and a write to RNGCNT are the reset
event and no effect. -/
theorem rngcntCountsDraws : Obligations.RngcntCountsDraws := by
  unfold Obligations.RngcntCountsDraws
  refine fun s t h => ⟨fun hreset => ?_, fun hreset => ?_, fun v hw => ?_⟩
  · rw [step_of_nextIsReset hreset] at h
    injection h with h
    rw [← h, State.resetEvent_rngcnt]
  · obtain ⟨n, ⟨hpos, hcnt⟩, hn⟩ := step_draws h hreset
    refine ⟨by omega, ?_, fun hne => hn (by omega)⟩
    rw [hpos, Nat.add_sub_cancel_left, hcnt]
  · rw [step_of_wordWrite .rngcnt hw] at h
    injection h with h
    subst h
    exact ⟨rfl, rfl, rfl⟩

end Sys2Proof.Proofs
end

section
/-! SUPPORT. The control registers ID, CONFIG and CTRL. -/

namespace Sys2Proof.Proofs

open Sys2Proof.Machine Sys2Proof.Claims

/-- CONFIG as a number: NSP above `W`, each in 16 bits. -/
theorem configWord_toNat (p : Params) (h : p.Legal) :
    (configWord p).toNat = p.smallPrimes.length * 2 ^ 16 + p.width := by
  have hw : p.width < 2 ^ 16 := by have := h.width_le; omega
  rw [configWord, BitVec.toNat_append, BitVec.toNat_ofNat, BitVec.toNat_ofNat, Nat.mod_eq_of_lt hw,
    Nat.mod_eq_of_lt h.primes_length, ← Nat.shiftLeft_add_eq_or_of_lt hw, Nat.shiftLeft_eq]

/-- Settles O44, by the rule for each control register and for a reserved offset. -/
theorem readOnlyControlRegisters : Obligations.ReadOnlyControlRegisters := by
  unfold Obligations.ReadOnlyControlRegisters
  intro s hs
  have hw : s.params.width < 2 ^ 16 := by have := hs.legal.width_le; omega
  have hc := configWord_toNat s.params hs.legal
  refine ⟨readValue_creg s .id, ⟨configWord s.params, readValue_creg s .config, by omega, by omega⟩,
    fun off h1 h2 _ => readValue_reserved s off h2 (cregAt_reserved off h1), ?_⟩
  rintro off v (hmem | ⟨h1, h2⟩)
  · obtain rfl | rfl | rfl : off = CReg.id.offset ∨ off = CReg.config.offset ∨ off = CReg.rngcnt.offset := by
      simpa [CReg.offset] using hmem
    · exact hostWrite_creg s .id v
    · exact hostWrite_creg s .config v
    · exact hostWrite_creg s .rngcnt v
  · exact hostWrite_reserved s off v h2 (cregAt_reserved off h1)

theorem word_reset : Ctrl.reset.word = 0 := by decide

/-- CTRL after a write without SRST reads the two enables of the written word. -/
theorem word_ofWord (v : Word) : (Ctrl.ofWord v).word = v &&& 3 := by
  apply BitVec.eq_of_getLsbD_eq
  intro k hk
  rw [Ctrl.word, Ctrl.ofWord, BitVec.getLsbD_append, BitVec.getLsbD_append, BitVec.getLsbD_and]
  match k with
  | 0 => simp
  | 1 => simp
  | k + 2 =>
    have hpow : 3 < 2 ^ (k + 2) := lt_of_lt_of_le (by decide : 3 < 2 ^ 2) (Nat.pow_le_pow_right (by decide) (by omega))
    have h3 : (3#32).getLsbD (k + 2) = false := by
      rw [BitVec.getLsbD_ofNat, Nat.testBit_lt_two_pow hpow, Bool.and_false]
    simp [h3]

/-- Settles O45, by the two cases of SRST in a CTRL write. -/
theorem ctrlRegister : Obligations.CtrlRegister := by
  unfold Obligations.CtrlRegister
  refine fun s v => ⟨fun hv => ⟨?_, ?_⟩, fun hv => ⟨_, rfl, ?_⟩⟩
  · exact (hostWrite_creg s .ctrl v).trans (writeCreg_ctrl_srst s v hv)
  · rw [← word_reset]
    exact readValue_creg s.resetEvent .ctrl
  · have hstore : s.hostWrite 0x008 (.word v) = { s with ctrl := Ctrl.ofWord v } :=
      (hostWrite_creg s .ctrl v).trans (writeCreg_ctrl_store s v hv)
    have hread : ({ s with ctrl := Ctrl.ofWord v } : State).readValue 0x008 .word = .word (v &&& 3) := by
      rw [← word_ofWord]
      exact readValue_creg _ .ctrl
    rw [hstore]
    exact ⟨rfl, rfl, fun x _ => by cases x <;> rfl, rfl, rfl, rfl, ⟨rfl, rfl⟩, hread⟩

end Sys2Proof.Proofs
end

section
/-! SUPPORT. The windows: one byte access, and the directives WR and RD that go through a whole register. -/

namespace Sys2Proof.Proofs

open Sys2Proof.Machine Sys2Proof.Claims

/-! ### One byte of a window -/

section Byte

variable {s : State} {k : Nat}

/-- R66 and R67, reading: an idle read of a window byte gives the register's byte, or 0 above the register. -/
theorem readValue_window_idle (x : BigReg) (hk : k < Config.windowSize) (hb : s.status.busy = false) :
    s.readValue (x.windowStart + k) .byte =
      .byte (if k < registerBytes s.params x then byteOf (registerBytes s.params x) (s.big x) k else 0) := by
  have hlow := (windowStart_bounds x).1
  rw [readValue_byte s _ (by omega), byteSeen_idle s _ _ hb, windowByte_windowStart s x k hk]

theorem hostWrite_general_idle (x : GReg) (b : Byte) (hk : k < Config.windowSize) (hb : s.status.busy = false) :
    s.hostWrite ((BigReg.gen x).windowStart + k) (.byte b) = s.putByte x k b := by
  have hlow := (windowStart_bounds (.gen x)).1
  rw [hostWrite_byte s _ b (by omega), writeWindow_gen_idle s x k [b] hk hb]
  rfl

theorem putByte_inside (x : GReg) (b : Byte) (hk : k < s.params.bytes) :
    s.putByte x k b = s.setG x (replaceByte s.params.bytes (s.g x) k b) :=
  if_pos hk

theorem putByte_above (x : GReg) (b : Byte) (hk : s.params.bytes ≤ k) : s.putByte x k b = s :=
  if_neg (Nat.not_lt.2 hk)

/-- A register fits in its window. -/
theorem registerBytes_le_windowSize {p : Params} (h : p.Legal) (x : BigReg) :
    registerBytes p x ≤ Config.windowSize := by
  have hw := h.width_le
  cases x <;> simp only [registerBytes, Params.bytes, Config.windowSize] <;> omega

/-- Replacing byte `k` of register `x` shows in that byte of its window and in no other. -/
theorem readValue_setG_replaceByte (x : GReg) (b : Byte) (j : Nat) (hs : s.params.Legal)
    (hb : s.status.busy = false) (hk : k < s.params.bytes) (hj : j < s.params.bytes) :
    (s.setG x (replaceByte s.params.bytes (s.g x) k b)).readValue ((BigReg.gen x).windowStart + j) .byte =
      if j = k then .byte b else s.readValue ((BigReg.gen x).windowStart + j) .byte := by
  have hjw := hj.trans_le (registerBytes_le_windowSize hs (.gen x))
  rw [readValue_window_idle _ hjw (by simpa using hb), readValue_window_idle _ hjw hb, registerBytes,
    State.setG_params, big_setG, if_pos rfl, registerBytes, if_pos hj, if_pos hj]
  split
  · next h => rw [h, byteOf_replaceByte_same]
  · next h =>
    rw [byteOf_replaceByte_other _ _ _ _ _ hk hj h]
    rfl

end Byte

theorem sameBig_setG (s : State) (x : GReg) (v : Nat) : SameBig s (s.setG x v) [.gen x] := by
  intro y hy
  rw [big_setG, if_neg (List.ne_of_not_mem_cons hy)]

/-- Settles O39: below `WB` a write is `replaceByte` of the register, above it `putByte` keeps the state. -/
theorem generalWindowBytes : Obligations.GeneralWindowBytes := by
  unfold Obligations.GeneralWindowBytes
  intro s x k b hs hb hk
  have hread := readValue_window_idle (s := s) (.gen x) hk hb
  have hwrite := hostWrite_general_idle (s := s) x b hk hb
  refine ⟨fun (hin : k < s.params.bytes) => ⟨?_, _, rfl, ?_⟩, fun (hout : s.params.bytes ≤ k) => ⟨?_, ?_⟩⟩
  · rw [hread, registerBytes, if_pos hin]
    rfl
  · rw [hwrite, putByte_inside x b hin]
    refine ⟨?_, fun j hj => readValue_setG_replaceByte x b j hs.legal hb hin hj, ?_, ?_, ?_, ?_⟩
    · rw [State.setG_g, if_pos rfl, replaceByte, byteOf_toNat]
      rfl
    · exact sameBig_setG s x _
    · simp
    · simp [SameControl]
    · simp [SameDraws]
  · rw [hread, registerBytes, if_neg (Nat.not_lt.2 hout)]
  · rw [hwrite, putByte_above x b hout]

/-- R67, writing: from 0x1800 on no write has an effect, whatever its size and alignment, idle or busy. -/
theorem hostWrite_signed (s : State) (off : Nat) (data : BusData) (h : 0x1800 ≤ off) : s.hostWrite off data = s := by
  have hlow : Config.windowSize ≤ off := le_trans (by decide) h
  cases data with
  | byte b => rw [hostWrite_byte s off b hlow, writeWindow_signed s off _ h]
  | word v =>
    by_cases h4 : off % 4 = 0
    · rw [hostWrite_word s off v hlow h4, writeWindow_signed s off _ h]
    · exact hostWrite_word_unaligned s off v h4

/-- Settles O40, for SX and SY alike: both have `2 * WB` bytes and a window from 0x1800 on. -/
theorem signedWindowBytes : Obligations.SignedWindowBytes := by
  unfold Obligations.SignedWindowBytes
  intro s x k _ hx hk
  have hbytes : registerBytes s.params x = 2 * (s.params.width / 8) := by
    obtain rfl | rfl := hx <;> rfl
  have hstart : 0x1800 ≤ x.windowStart := by
    obtain rfl | rfl := hx <;> decide
  refine ⟨fun hb => ?_, fun data => hostWrite_signed s _ data (by omega)⟩
  rw [readValue_window_idle x hk hb, hbytes]
  rfl

/-! ### Scheduled accesses -/

/-- `s` when its schedule has moved on to `rest` and the host's reads have returned `data`, newest first. -/
def afterAccesses (s : State) (rest : List Event) (data : List BusData) : State :=
  { s with events := rest, reads := data ++ s.reads }

section AfterAccesses

variable (s : State) (rest : List Event) (data : List BusData)

@[simp] theorem afterAccesses_params : (afterAccesses s rest data).params = s.params := rfl
@[simp] theorem afterAccesses_status : (afterAccesses s rest data).status = s.status := rfl
@[simp] theorem afterAccesses_events : (afterAccesses s rest data).events = rest := rfl
@[simp] theorem afterAccesses_reads : (afterAccesses s rest data).reads = data ++ s.reads := rfl
@[simp] theorem afterAccesses_g (x : GReg) : (afterAccesses s rest data).g x = s.g x := by cases x <;> rfl
@[simp] theorem afterAccesses_big (x : BigReg) : (afterAccesses s rest data).big x = s.big x := by
  cases x with
  | gen x => exact afterAccesses_g s rest data x
  | sx => rfl
  | sy => rfl

theorem afterAccesses_nil (h : s.events = rest) : afterAccesses s rest [] = s := by
  subst h
  rfl

theorem afterAccesses_afterAccesses (rest' : List Event) (data' : List BusData) :
    afterAccesses (afterAccesses s rest data) rest' data' = afterAccesses s rest' (data' ++ data) := by
  simp [afterAccesses]

theorem afterAccesses_setG (x : GReg) (v : Nat) :
    afterAccesses (s.setG x v) rest data = (afterAccesses s rest data).setG x v := by
  cases x <;> rfl

end AfterAccesses

section Schedule

variable {s : State} {rest : List Event} {k : Nat}

/-- A byte of a window is inside the register space. -/
theorem busOffset_window (x : BigReg) (p : Params) (hk : k < Config.windowSize) :
    busOffset p (p.base + (x.windowStart + k)) .byte = some (x.windowStart + k) := by
  have hend := (windowStart_bounds x).2.2
  exact busOffset_inside _ _ _ (by simp only [Size.bytes]; omega)

theorem step_of_access {a : Access} (hev : s.events = .access a :: rest) :
    step s = (afterAccesses s rest []).hostAccess a :=
  step_of_cons s _ rest hev

theorem hostAccess_read {addr off : Nat} {size : Size} (h : busOffset s.params addr size = some off) :
    s.hostAccess (.read addr size) = .next (s.hostRead off size) := by
  rw [State.hostAccess, h]

theorem hostAccess_write {addr off : Nat} {data : BusData} (h : busOffset s.params addr data.size = some off) :
    s.hostAccess (.write addr data) = .next (s.hostWrite off data) := by
  rw [State.hostAccess, h]

/-- Idle, a read takes no free value. -/
theorem hostRead_idle (off : Nat) (size : Size) (hb : s.status.busy = false) :
    s.hostRead off size = afterAccesses s s.events [s.readValue off size] := by
  simp [State.hostRead, hb, afterAccesses]

/-- One write of WR, idle: the byte goes into the register. -/
theorem step_wr (x : GReg) (b : Byte) (hs : s.params.Legal) (hb : s.status.busy = false)
    (hk : k < s.params.bytes)
    (hev : s.events = hostWriteAt s.params ((BigReg.gen x).windowStart + k) (.byte b) :: rest) :
    step s = .next ((afterAccesses s rest []).setG x (replaceByte s.params.bytes (s.g x) k b)) := by
  have hkw := hk.trans_le (registerBytes_le_windowSize hs (.gen x))
  have hb' : (afterAccesses s rest []).status.busy = false := hb
  have hk' : k < (afterAccesses s rest []).params.bytes := hk
  rw [step_of_access hev, hostAccess_write (busOffset_window _ _ hkw), hostWrite_general_idle x b hkw hb',
    putByte_inside x b hk', afterAccesses_g, afterAccesses_params]

/-- One read of RD, idle: the byte goes to the host. -/
theorem step_rd (x : BigReg) (hs : s.params.Legal) (hb : s.status.busy = false)
    (hk : k < registerBytes s.params x) (hev : s.events = hostReadAt s.params (x.windowStart + k) .byte :: rest) :
    step s = .next (afterAccesses s rest [.byte (byteOf (registerBytes s.params x) (s.big x) k)]) := by
  have hkw := hk.trans_le (registerBytes_le_windowSize hs x)
  have hb' : (afterAccesses s rest []).status.busy = false := hb
  have hoff : busOffset (afterAccesses s rest []).params (s.params.base + (x.windowStart + k)) .byte =
      some (x.windowStart + k) := busOffset_window x s.params hkw
  rw [step_of_access hev, hostAccess_read hoff, hostRead_idle _ _ hb',
    readValue_window_idle x hkw hb', afterAccesses_params, afterAccesses_big, if_pos hk, afterAccesses_afterAccesses]
  rfl

end Schedule

/-! ### WR -/

theorem setG_self {s : State} {x : GReg} {v : Nat} (h : s.g x = v) : s.setG x v = s := by
  subst h
  cases x <;> rfl

theorem setG_setG (s : State) (x : GReg) (v w : Nat) : (s.setG x v).setG x w = s.setG x w := by
  cases x <;> rfl

/-- Where `r` agrees with `v` above byte `k`, it agrees from byte `k` up once that byte is `v`'s. -/
theorem replaceByte_div_pow (w r v k : Nat) (h : r / 256 ^ (w - 1 - k + 1) = v / 256 ^ (w - 1 - k + 1)) :
    replaceByte w r k (byteOf w v k) / 256 ^ (w - 1 - k) = v / 256 ^ (w - 1 - k) := by
  rw [replaceByte_eq, byteOf_toNat]
  generalize w - 1 - k = e at h ⊢
  have hpos : 0 < 256 ^ e := by positivity
  have hlo : r % 256 ^ e < 256 ^ e := Nat.mod_lt _ hpos
  have hhi : r / 256 ^ e / 256 = v / 256 ^ e / 256 := by
    rw [Nat.div_div_eq_div_mul, Nat.div_div_eq_div_mul, ← pow_succ, h]
  calc (r / 256 ^ e / 256 * (256 ^ e * 256) + v / 256 ^ e % 256 * 256 ^ e + r % 256 ^ e) / 256 ^ e
      = (r % 256 ^ e + 256 ^ e * (v / 256 ^ e / 256 * 256 + v / 256 ^ e % 256)) / 256 ^ e := by
        rw [hhi]
        congr 1
        ring
    _ = v / 256 ^ e / 256 * 256 + v / 256 ^ e % 256 := by
        rw [Nat.add_mul_div_left _ _ hpos, Nat.div_eq_of_lt hlo, Nat.zero_add]
    _ = v / 256 ^ e := Nat.div_add_mod' _ _

/-- The last `n` writes of `WR x, v`, begun with the bytes above them already those of `v`, leave `v` in `x`. -/
theorem run_wrFrom (x : GReg) (v : Nat) (rest : List Event) : ∀ (n k : Nat) (s : State), s.params.Legal →
    s.status.busy = false → k + n = s.params.bytes → s.events = wrFrom s.params x v k n ++ rest →
    s.g x / 256 ^ n = v / 256 ^ n →
    Sys2Proof.core.run n s = .next ((afterAccesses s rest []).setG x v)
  | 0, k, s, _, _, _, hev, hg => by
    rw [afterAccesses_nil s rest hev, setG_self (by simpa using hg)]
    rfl
  | n + 1, k, s, hs, hb, hkn, hev, hg => by
    have hstep := step_wr x (byteOf s.params.bytes v k) hs hb (by omega) hev
    have he : s.params.bytes - 1 - k = n := by omega
    have hg' := replaceByte_div_pow s.params.bytes (s.g x) v k (by rwa [he])
    rw [he] at hg'
    have hrest := run_wrFrom x v rest n (k + 1)
      ((afterAccesses s (wrFrom s.params x v (k + 1) n ++ rest) []).setG x
        (replaceByte s.params.bytes (s.g x) k (byteOf s.params.bytes v k)))
      (by simpa using hs) (by simpa using hb) (by rw [State.setG_params, afterAccesses_params]; omega) (by simp)
      (by simpa using hg')
    rw [afterAccesses_setG, setG_setG, afterAccesses_afterAccesses] at hrest
    exact (run_succ n _ _ hstep).trans hrest

/-- `WR x, v`, idle: `x` holds `v` and nothing else changed. -/
theorem run_wrDirective {s : State} {x : GReg} {v : Nat} {rest : List Event} (hs : s.Inv)
    (hb : s.status.busy = false) (hv : v < 2 ^ s.params.width)
    (hev : s.events = wrDirective s.params x v ++ rest) :
    Sys2Proof.core.run s.params.bytes s = .next ((afterAccesses s rest []).setG x v) := by
  have hbound : 2 ^ s.params.width = 256 ^ s.params.bytes := bound_eq_bytes s.params hs.legal
  have hg := hs.general_lt x
  rw [hbound] at hv hg
  exact run_wrFrom x v rest _ 0 s hs.legal hb (Nat.zero_add _) hev (by rw [Nat.div_eq_of_lt hg, Nat.div_eq_of_lt hv])

/-! ### RD -/

/-- Bytes `k` to `k + n - 1` of a `w`-byte big-endian register that holds `v` (R60). -/
def bytesFrom (w v k n : Nat) : List Byte := (List.range' k n).map (byteOf w v)

theorem bytesFrom_succ (w v k n : Nat) : bytesFrom w v k (n + 1) = byteOf w v k :: bytesFrom w v (k + 1) n := rfl

@[simp] theorem length_bytesFrom (w v k n : Nat) : (bytesFrom w v k n).length = n := by
  simp [bytesFrom]

/-- The last `n` bytes of a register spell what it holds modulo `256^n`. -/
theorem spell_bytesFrom (w v : Nat) : ∀ n k : Nat, k + n = w → spell (bytesFrom w v k n) = v % 256 ^ n
  | 0, k, _ => by rw [pow_zero, Nat.mod_one]; rfl
  | n + 1, k, h => by
    have he : w - 1 - k = n := by omega
    rw [bytesFrom_succ, spell, length_bytesFrom, spell_bytesFrom w v n (k + 1) (by omega), byteOf_toNat, he,
      Nat.mod_pow_succ, Nat.mul_comm, Nat.add_comm]

theorem bytesRead_map_byte (bs : List Byte) : bytesRead (bs.map .byte) = bs := by
  induction bs with
  | nil => rfl
  | cons b bs ih => rw [List.map_cons, bytesRead, ih]

/-- The last `n` reads of `RD x`, idle, give the host these bytes of the register. -/
theorem run_rdFrom (x : BigReg) (rest : List Event) : ∀ (n k : Nat) (s : State), s.params.Legal →
    s.status.busy = false → k + n = registerBytes s.params x → s.events = rdFrom s.params x k n ++ rest →
    Sys2Proof.core.run n s = .next
      (afterAccesses s rest ((bytesFrom (registerBytes s.params x) (s.big x) k n).reverse.map .byte))
  | 0, k, s, _, _, _, hev => congrArg Host.Outcome.next (afterAccesses_nil s rest hev).symm
  | n + 1, k, s, hs, hb, hkn, hev => by
    have hstep := step_rd x hs hb (by omega) hev
    have hrest := run_rdFrom x rest n (k + 1) (afterAccesses s (rdFrom s.params x (k + 1) n ++ rest)
      [.byte (byteOf (registerBytes s.params x) (s.big x) k)]) hs hb (by rw [afterAccesses_params]; omega) rfl
    rw [afterAccesses_afterAccesses, afterAccesses_big] at hrest
    rw [bytesFrom_succ, List.reverse_cons, List.map_append]
    exact (run_succ n _ _ hstep).trans hrest

/-- The value of an RD is what the bytes it read spell. -/
theorem rdValue_of_reads {s : State} {bs : List Byte} {older : List BusData}
    (h : s.reads = bs.reverse.map .byte ++ older) : s.rdValue bs.length = spell bs := by
  rw [State.rdValue, h, List.take_left' (by simp), bytesRead_map_byte, List.reverse_reverse]

/-- `RD x`, idle: one read per byte, which together spell what the register holds, and nothing else changed. -/
theorem run_rdDirective {s : State} {x : BigReg} {rest : List Event} (hs : s.params.Legal)
    (hb : s.status.busy = false) (hev : s.events = rdDirective s.params x ++ rest) :
    ∃ bs : List Byte, bs.length = registerBytes s.params x ∧
      spell bs = s.big x % 256 ^ registerBytes s.params x ∧
      Sys2Proof.core.run (registerBytes s.params x) s = .next (afterAccesses s rest (bs.reverse.map .byte)) :=
  ⟨_, length_bytesFrom _ _ _ _, spell_bytesFrom _ _ _ 0 (Nat.zero_add _),
    run_rdFrom x rest _ 0 s hs hb (Nat.zero_add _) hev⟩

/-- Settles O43: WR leaves `v` in the register, and RD after it reads the bytes that spell `v`. -/
theorem windowRoundTrip : Obligations.WindowRoundTrip := by
  unfold Obligations.WindowRoundTrip
  intro s x v rest hs hb hv hev
  rw [List.append_assoc] at hev
  have hwr := run_wrDirective hs hb hv hev
  generalize hu : (afterAccesses s (rdDirective s.params (.gen x) ++ rest) []).setG x v = u at hwr
  have hp : u.params = s.params := by simp [← hu]
  have hbig : u.big (.gen x) = v := by simp [← hu]
  obtain ⟨bs, hlen, hspell, hrd⟩ := run_rdDirective (s := u) (x := .gen x) (rest := rest)
    (by rw [hp]; exact hs.legal) (by simpa [← hu] using hb) (by simp [← hu])
  rw [hbig, hp, registerBytes, ← bound_eq_bytes s.params hs.legal, Params.bound, Nat.mod_eq_of_lt hv] at hspell
  rw [hp, registerBytes] at hlen hrd
  have hrun : Sys2Proof.core.run (2 * s.params.bytes) s = .next (afterAccesses u rest (bs.reverse.map .byte)) := by
    rw [Nat.two_mul]
    exact (run_add _ _ _ _ hwr).trans hrd
  have hvalue := rdValue_of_reads (afterAccesses_reads u rest (bs.reverse.map .byte))
  rw [hlen, hspell] at hvalue
  refine ⟨_, hrun, (afterAccesses_g _ _ _ _).trans hbig, hvalue, ?_, rfl, fun y hy => ?_, ?_⟩
  · simp [← hu, hlen, Params.bytes, Nat.add_comm]
  · rw [afterAccesses_big, ← hu, big_setG, if_neg (List.ne_of_not_mem_cons hy), afterAccesses_big]
  · simp [← hu]

end Sys2Proof.Proofs
end

section
/-! SUPPORT. The encoding: when a word matches a row of R97's table, and when a word is legal (R100). -/

namespace Sys2Proof.Proofs

open Sys2Proof.Machine Sys2Proof.Claims

/-! ### Words by their fields (R91) -/

/-- Two words are equal exactly if their fields are. -/
theorem word_eq_iff_fields (v w : Word) :
    v = w ↔ fieldOpc v = fieldOpc w ∧ fieldRd v = fieldRd w ∧ fieldRs v = fieldRs w ∧ fieldImm v = fieldImm w := by
  refine ⟨fun h => h ▸ ⟨rfl, rfl, rfl, rfl⟩, fun ⟨hopc, hrd, hrs, himm⟩ => ?_⟩
  rw [← assembleFields_fields v, ← assembleFields_fields w, hopc, hrd, hrs, himm]

@[simp] theorem fieldOpc_and (v w : Word) : fieldOpc (v &&& w) = fieldOpc v &&& fieldOpc w := BitVec.extractLsb'_and
@[simp] theorem fieldRd_and (v w : Word) : fieldRd (v &&& w) = fieldRd v &&& fieldRd w := BitVec.extractLsb'_and
@[simp] theorem fieldRs_and (v w : Word) : fieldRs (v &&& w) = fieldRs v &&& fieldRs w := BitVec.extractLsb'_and
@[simp] theorem fieldImm_and (v w : Word) : fieldImm (v &&& w) = fieldImm v &&& fieldImm w := BitVec.extractLsb'_and

/-- A masked word against a word given by its fields: the mask acts field by field. -/
theorem and_assembleFields_eq_iff (w : Word) (imm imm' : BitVec 16) (rs rs' rd rd' : BitVec 4) (opc opc' : BitVec 8) :
    w &&& assembleFields imm rs rd opc = assembleFields imm' rs' rd' opc' ↔
      fieldOpc w &&& opc = opc' ∧ fieldRd w &&& rd = rd' ∧ fieldRs w &&& rs = rs' ∧ fieldImm w &&& imm = imm' := by
  simp only [word_eq_iff_fields, fieldOpc_and, fieldRd_and, fieldRs_and, fieldImm_and, fieldOpc_assembleFields,
    fieldRd_assembleFields, fieldRs_assembleFields, fieldImm_assembleFields]

/-- RD as R97's select constraint reads it. -/
theorem toNat_fieldRd (w : Word) : (w >>> 8).toNat % 16 = (fieldRd w).toNat := by
  simp [fieldRd, BitVec.extractLsb', BitVec.toNat_ushiftRight]

/-- RS as R97's select constraint reads it. -/
theorem toNat_fieldRs (w : Word) : (w >>> 12).toNat % 16 = (fieldRs w).toNat := by
  simp [fieldRs, BitVec.extractLsb', BitVec.toNat_ushiftRight]

/-- Bits 31:8 are the fields RD, RS and IMM16. -/
theorem shiftRight_eight_eq_zero_iff (w : Word) :
    w >>> 8 = 0 ↔ fieldRd w = 0 ∧ fieldRs w = 0 ∧ fieldImm w = 0 := by
  have hw := w.isLt
  simp only [fieldRd, fieldRs, fieldImm, ← BitVec.toNat_inj, BitVec.extractLsb'_toNat, BitVec.toNat_ushiftRight,
    Nat.shiftRight_eq_div_pow, BitVec.ofNat_eq_ofNat, BitVec.toNat_ofNat, Nat.zero_mod]
  omega

/-- The selects that name a register are 0 to 4 (R21). -/
theorem exists_select_iff (k : BitVec 4) : (∃ x : GReg, k = x.select) ↔ k.toNat ≤ 4 := by
  simp only [← selectReg_eq_some_iff, ← Option.isSome_iff_exists]
  revert k
  decide

/-! ### The row of a command -/

/-- The row of R97's table that holds command `i`. -/
def row : Instr → OpcodeRow
  | .mov _ _ => ⟨0x00000001, 0xFFFF00FF, true, true⟩
  | .ldi _ _ => ⟨0x00000002, 0x0000F0FF, true, false⟩
  | i => ⟨i.opcode.zeroExtend 32, 0xFFFFFFFF, false, false⟩

/-- What the format of command `i` asks of a word: its opcode, 0 in the fields it does not use, selects that name a
register (R92). -/
def InFormat (w : Word) : Instr → Prop
  | .mov _ _ => fieldOpc w = 0x01 ∧ fieldImm w = 0 ∧ (fieldRd w).toNat ≤ 4 ∧ (fieldRs w).toNat ≤ 4
  | .ldi _ _ => fieldOpc w = 0x02 ∧ fieldRs w = 0 ∧ (fieldRd w).toNat ≤ 4
  | i => fieldOpc w = i.opcode ∧ w >>> 8 = 0

/-- The commands of R97's table, in its order, some operand for each operand of MOV and LDI. -/
def commands : List Instr :=
  [.nop, .mov .A .A, .ldi .A 0, .add, .sub, .mul, .div, .mod, .cmp, .gcd, .mulmod, .montmul, .modexp, .bezout, .modinv,
    .primetest]

theorem opcodeTable_eq_map_row : opcodeTable = commands.map row := rfl

theorem row_mem_opcodeTable (i : Instr) : row i ∈ opcodeTable := by
  cases i with
  | mov rd rs => exact (by decide : row (.mov .A .A) ∈ opcodeTable)
  | ldi rd imm => exact (by decide : row (.ldi .A 0) ∈ opcodeTable)
  | _ => decide

theorem row_bits (i : Instr) : (row i).bits = i.opcode.zeroExtend 32 := by
  cases i <;> rfl

theorem and_mask_full (w : Word) (opc : BitVec 8) :
    w &&& 0xFFFFFFFF = opc.zeroExtend 32 ↔ fieldOpc w = opc ∧ w >>> 8 = 0 := by
  have hbits : opc.zeroExtend 32 = assembleFields 0 0 0 opc := by
    revert opc
    decide
  rw [show w &&& 0xFFFFFFFF = w from BitVec.and_allOnes, hbits, word_eq_iff_fields, shiftRight_eight_eq_zero_iff]
  simp

theorem and_mask_mov (w : Word) : w &&& 0xFFFF00FF = 0x00000001 ↔ fieldOpc w = 0x01 ∧ fieldImm w = 0 := by
  rw [show (0xFFFF00FF : Word) = assembleFields (.allOnes 16) 0 0 (.allOnes 8) by decide,
    show (0x00000001 : Word) = assembleFields 0 0 0 1 by decide, and_assembleFields_eq_iff,
    BitVec.and_allOnes, BitVec.and_allOnes]
  simp

theorem and_mask_ldi (w : Word) : w &&& 0x0000F0FF = 0x00000002 ↔ fieldOpc w = 0x02 ∧ fieldRs w = 0 := by
  rw [show (0x0000F0FF : Word) = assembleFields 0 (.allOnes 4) 0 (.allOnes 8) by decide,
    show (0x00000002 : Word) = assembleFields 0 0 0 2 by decide, and_assembleFields_eq_iff,
    BitVec.and_allOnes, BitVec.and_allOnes]
  simp

/-- The test of R97 on a row, as a proposition. -/
theorem matchesWord_iff (r : OpcodeRow) (w : Word) : r.matchesWord w = true ↔
    w &&& r.mask = r.bits ∧ (r.rdNamesReg = true → (fieldRd w).toNat ≤ 4) ∧
      (r.rsNamesReg = true → (fieldRs w).toNat ≤ 4) := by
  rw [OpcodeRow.matchesWord, toNat_fieldRd, toNat_fieldRs]
  cases r.rdNamesReg <;> cases r.rsNamesReg <;> simp [and_assoc]

theorem matchesWord_row_iff (w : Word) (i : Instr) : (row i).matchesWord w = true ↔ InFormat w i := by
  rw [matchesWord_iff]
  cases i with
  | mov rd rs => simp only [row, InFormat, and_mask_mov, and_assoc, forall_const]
  | ldi rd imm =>
    simp only [row, InFormat, and_mask_ldi, and_assoc, forall_const, Bool.false_eq_true, false_imp_iff, and_true]
  | _ => simpa [row, InFormat] using and_mask_full w _

/-! ### Legal words are the words of a format -/

theorem inFormat_of_decode {w : Word} {i : Instr} (h : decode w = .ok i) : InFormat w i := by
  have hsel (x : GReg) : x.select.toNat ≤ 4 := (exists_select_iff _).1 ⟨x, rfl⟩
  obtain ⟨hopc, hrd, hrs, himm, -, -⟩ | ⟨rd, rs, rfl, hopc, hrd, hrs, himm⟩ | ⟨rd, rfl, hopc, hrd, hrs⟩ :=
    decode_cases w i h
  · -- `decode_cases` leaves MOV and LDI open here; three zero fields fit their formats too.
    have hz := (shiftRight_eight_eq_zero_iff w).2 ⟨hrd, hrs, himm⟩
    cases i with
    | mov rd rs => exact ⟨hopc, himm, by simp [hrd], by simp [hrs]⟩
    | ldi rd imm => exact ⟨hopc, hrs, by simp [hrd]⟩
    | _ => exact ⟨hopc, hz⟩
  · exact ⟨hopc, himm, hrd ▸ hsel rd, hrs ▸ hsel rs⟩
  · exact ⟨hopc, hrs, hrd ▸ hsel rd⟩

/-- A word of a command's format is a command of the same row. -/
theorem decode_of_inFormat {w : Word} {i : Instr} (h : InFormat w i) : ∃ j, decode w = .ok j ∧ row j = row i := by
  cases i with
  | mov rd rs =>
    obtain ⟨hopc, himm, hrd, hrs⟩ := h
    obtain ⟨rd', hrd'⟩ := (exists_select_iff _).2 hrd
    obtain ⟨rs', hrs'⟩ := (exists_select_iff _).2 hrs
    have hdec : decode w = decodeM w := by rw [decode, hopc]; rfl
    exact ⟨.mov rd' rs', hdec.trans ((decodeM_eq_ok w _).2 ⟨rd', rs', rfl, hrd', hrs', himm⟩), rfl⟩
  | ldi rd imm =>
    obtain ⟨hopc, hrs, hrd⟩ := h
    obtain ⟨rd', hrd'⟩ := (exists_select_iff _).2 hrd
    have hdec : decode w = decodeI w := by rw [decode, hopc]; rfl
    exact ⟨_, hdec.trans ((decodeI_eq_ok w _).2 ⟨rd', rfl, hrd', hrs⟩), rfl⟩
  | _ =>
    obtain ⟨hopc, hz⟩ := h
    rw [decode, hopc]
    exact ⟨_, (decodeZ_eq_ok w _ _).2 ⟨rfl, (shiftRight_eight_eq_zero_iff w).1 hz⟩, rfl⟩

theorem row_matchesWord_of_decode {w : Word} {i : Instr} (h : decode w = .ok i) : (row i).matchesWord w = true :=
  (matchesWord_row_iff w i).2 (inFormat_of_decode h)

/-- A word that matches a row is a command of that row. -/
theorem decode_of_matchesWord {w : Word} {r : OpcodeRow} (hr : r ∈ opcodeTable) (hm : r.matchesWord w = true) :
    ∃ i, decode w = .ok i ∧ row i = r := by
  rw [opcodeTable_eq_map_row] at hr
  obtain ⟨i, -, rfl⟩ := List.mem_map.1 hr
  exact decode_of_inFormat ((matchesWord_row_iff w i).1 hm)

/-- Settles O3: the row of a decoded command is `row`, and a row a word matches is the row of the command it decodes to. -/
theorem commandsAreTheTableRows : Obligations.CommandsAreTheTableRows := by
  unfold Obligations.CommandsAreTheTableRows
  refine ⟨fun w i h => ⟨row i, row_mem_opcodeTable i, row_bits i, row_matchesWord_of_decode h⟩, fun w r hr hm => ?_⟩
  obtain ⟨i, hi, rfl⟩ := decode_of_matchesWord hr hm
  exact ⟨i, hi, (row_bits i).symm⟩

end Sys2Proof.Proofs
end

section
/-! SUPPORT. Illegal words (R100): how many rows a word matches, the four ways to be illegal, and the end of an illegal
word in flight. -/

namespace Sys2Proof.Proofs

open Sys2Proof.Machine Sys2Proof.Claims

/-! ### Matching exactly one row -/

/-- The one row a legal word matches is that of its command. -/
theorem matchesWord_iff_eq_row {w : Word} {i : Instr} (h : decode w = .ok i) {r : OpcodeRow} (hr : r ∈ opcodeTable) :
    r.matchesWord w = true ↔ r = row i := by
  refine ⟨fun hm => ?_, fun he => he ▸ row_matchesWord_of_decode h⟩
  obtain ⟨j, hj, rfl⟩ := decode_of_matchesWord hr hm
  rw [h] at hj
  injection hj with hj
  rw [hj]

theorem opcodeTable_nodup : opcodeTable.Nodup := by decide

theorem legal_iff_matches_one_row (w : Word) :
    (∃ i, decode w = .ok i) ↔ (opcodeTable.filter (·.matchesWord w)).length = 1 := by
  constructor
  · rintro ⟨i, hi⟩
    calc (opcodeTable.filter (·.matchesWord w)).length
        = opcodeTable.countP (·.matchesWord w) := List.countP_eq_length_filter.symm
      _ = opcodeTable.count (row i) := List.countP_congr fun r hr => by simpa using matchesWord_iff_eq_row hi hr
      _ = 1 := List.count_eq_one_of_mem opcodeTable_nodup (row_mem_opcodeTable i)
  · intro h
    obtain ⟨r, hr⟩ := List.exists_mem_of_length_pos (by omega : 0 < (opcodeTable.filter (·.matchesWord w)).length)
    obtain ⟨hmem, hm⟩ := List.mem_filter.1 hr
    obtain ⟨i, hi, -⟩ := decode_of_matchesWord hmem hm
    exact ⟨i, hi⟩

/-! ### The illegal words -/

/-- The opcodes of the Z format (R97). -/
def zOpcodes : List (BitVec 8) :=
  [0x00, 0x10, 0x11, 0x12, 0x13, 0x14, 0x15, 0x16, 0x20, 0x21, 0x22, 0x30, 0x31, 0x40]

/-- A word is legal exactly if it has the format of its opcode. -/
theorem legal_iff_format (w : Word) : (∃ i, decode w = .ok i) ↔
    (fieldOpc w ∈ zOpcodes ∧ w >>> 8 = 0) ∨
    (fieldOpc w = 0x01 ∧ fieldImm w = 0 ∧ (fieldRd w).toNat ≤ 4 ∧ (fieldRs w).toNat ≤ 4) ∨
    (fieldOpc w = 0x02 ∧ fieldRs w = 0 ∧ (fieldRd w).toNat ≤ 4) := by
  have hlegal : (∃ i, decode w = .ok i) ↔ ∃ i, InFormat w i :=
    ⟨fun ⟨i, hi⟩ => ⟨i, inFormat_of_decode hi⟩, fun ⟨_, hi⟩ => (decode_of_inFormat hi).imp fun _ => And.left⟩
  rw [hlegal]
  constructor
  · rintro ⟨i, hi⟩
    cases i with
    | mov rd rs => exact .inr (.inl hi)
    | ldi rd imm => exact .inr (.inr hi)
    | _ =>
      obtain ⟨hopc, hz⟩ := hi
      exact .inl ⟨hopc ▸ by decide, hz⟩
  · rintro (⟨hopc, hz⟩ | hmov | hldi)
    · have hcommand : ∀ b ∈ zOpcodes, ∃ i ∈ commands, b = i.opcode ∧ b ≠ 1 ∧ b ≠ 2 := by decide
      obtain ⟨i, -, hi, h1, h2⟩ := hcommand _ hopc
      refine ⟨i, ?_⟩
      cases i with
      | mov rd rs => exact absurd hi h1
      | ldi rd imm => exact absurd hi h2
      | _ => exact ⟨hi, hz⟩
    · exact ⟨.mov .A .A, hmov⟩
    · exact ⟨.ldi .A 0, hldi⟩

/-- The cases (a) to (d) of R100. -/
theorem illegal_iff (w : Word) : (¬ ∃ i, decode w = .ok i) ↔
    (fieldOpc w ∉ [0x00, 0x01, 0x02, 0x10, 0x11, 0x12, 0x13, 0x14, 0x15, 0x16, 0x20, 0x21, 0x22, 0x30, 0x31, 0x40]) ∨
    (fieldOpc w ∈ zOpcodes ∧ w >>> 8 ≠ 0) ∨
    (fieldOpc w = 0x01 ∧ (fieldImm w ≠ 0 ∨ 4 < (fieldRd w).toNat ∨ 4 < (fieldRs w).toNat)) ∨
    (fieldOpc w = 0x02 ∧ (fieldRs w ≠ 0 ∨ 4 < (fieldRd w).toNat)) := by
  rw [legal_iff_format]
  by_cases hmov : fieldOpc w = 0x01
  · simp [hmov, zOpcodes, imp_iff_not_or]
  by_cases hldi : fieldOpc w = 0x02
  · simp [hldi, zOpcodes, imp_iff_not_or]
  have hopcode : fieldOpc w ∈ ([0x00, 0x01, 0x02, 0x10, 0x11, 0x12, 0x13, 0x14, 0x15, 0x16, 0x20, 0x21, 0x22, 0x30,
      0x31, 0x40] : List (BitVec 8)) ↔ fieldOpc w ∈ zOpcodes := by
    simp only [zOpcodes, List.mem_cons, hmov, hldi, false_or]
  simp only [hopcode, hmov, hldi, false_and, or_false]
  tauto

/-! ### The end of an illegal word -/

/-- A completion in error is an error that leaves everything else. -/
theorem errsFrom_complete (s : State) (e : CmdError) : ErrsFrom s (s.complete (some e)) e := by
  refine ⟨fun x _ => by simp, ?_, ?_, sameFlags_complete _, ?_⟩
  · simp [SameControl]
  · simp [SameDraws]
  · simp [Ended]

theorem engineTurn_of_illegal {s : State} (hb : s.status.busy = true) (h : ¬ ∃ i, decode s.cmd = .ok i) :
    s.engineTurn = .next (s.complete (some .illegalCmd)) := by
  rw [State.engineTurn, if_pos hb]
  cases hd : decode s.cmd with
  | ok i => exact absurd ⟨i, hd⟩ h
  | error r => rfl

/-- Settles O4: `legal_iff_matches_one_row`, `illegal_iff`, and the engine's turn on an illegal word. -/
theorem illegalWords : Obligations.IllegalWords := by
  unfold Obligations.IllegalWords
  exact ⟨legal_iff_matches_one_row, illegal_iff,
    fun s hb h => ⟨_, engineTurn_of_illegal hb h, errsFrom_complete s .illegalCmd⟩⟩

/-- Settles O5 by evaluation: the statement is about thirteen fixed words. -/
theorem workedEncodings : Obligations.WorkedEncodings := by
  unfold Obligations.WorkedEncodings
  decide

end Sys2Proof.Proofs
end

section
/-! SUPPORT. The control registers CMD and ROUNDS. -/

namespace Sys2Proof.Proofs

open Sys2Proof.Machine Sys2Proof.Claims

variable {s : State}

@[simp] theorem big_issue (s : State) (w : Word) (y : BigReg) : (s.issue w).big y = s.big y := by
  cases y <;> simp [State.big]

theorem writeCreg_cmd_idle (w : Word) (hb : s.status.busy = false) : s.writeCreg .cmd w = s.issue w :=
  if_neg (Bool.eq_false_iff.1 hb)

theorem writeCreg_rounds_idle (w : Word) (hb : s.status.busy = false) : s.writeCreg .rounds w = { s with rounds := w } :=
  if_neg (Bool.eq_false_iff.1 hb)

theorem writeCreg_cmd_busy (w : Word) (hb : s.status.busy = true) : s.writeCreg .cmd w = s.busyViolation :=
  if_pos hb

theorem writeCreg_rounds_busy (w : Word) (hb : s.status.busy = true) : s.writeCreg .rounds w = s.busyViolation :=
  if_pos hb

/-- Settles O47, by the write rule of each register at each value of BUSY. -/
theorem cmdAndRoundsWrites : Obligations.CmdAndRoundsWrites := by
  unfold Obligations.CmdAndRoundsWrites
  refine fun s w => ⟨fun hb => ?_, fun hb => ?_, fun hb => ⟨?_, ?_⟩⟩
  · have hwrite : s.hostWrite 0x010 (.word w) = s.issue w := (hostWrite_creg s .cmd w).trans (writeCreg_cmd_idle w hb)
    refine ⟨s.issue w, hwrite, rfl, rfl, rfl, rfl, rfl, rfl, ?_, fun x _ => big_issue s w x, rfl, rfl, ⟨rfl, rfl⟩,
      readValue_creg _ .cmd⟩
    simp [SameFlags, SameFlagsButZ]
  · have hwrite : s.hostWrite 0x014 (.word w) = { s with rounds := w } :=
      (hostWrite_creg s .rounds w).trans (writeCreg_rounds_idle w hb)
    exact ⟨_, hwrite, rfl, readValue_creg _ .rounds, fun x _ => by cases x <;> rfl, rfl, rfl, rfl, rfl, rfl⟩
  · exact (hostWrite_creg s .cmd w).trans (writeCreg_cmd_busy w hb)
  · exact (hostWrite_creg s .rounds w).trans (writeCreg_rounds_busy w hb)

end Sys2Proof.Proofs
end

section
/-! SUPPORT. The decoder and the encoder are inverse to each other on the well-formed commands. -/

namespace Sys2Proof.Proofs

open Sys2Proof.Machine Sys2Proof.Claims

theorem decode_mov (w : Word) (h : fieldOpc w = 0x01) : decode w = decodeM w := by
  rw [decode, h]
  rfl

theorem decode_ldi (w : Word) (h : fieldOpc w = 0x02) : decode w = decodeI w := by
  rw [decode, h]
  rfl

theorem decode_encode {i : Instr} (hi : i.WellFormed) : decode (encode i) = .ok i := by
  cases i with
  | mov rd rs =>
    have hopc : fieldOpc (encode (.mov rd rs)) = 0x01 := fieldOpc_assembleFields ..
    rw [decode_mov _ hopc, decodeM_eq_ok]
    exact ⟨rd, rs, rfl, fieldRd_assembleFields .., fieldRs_assembleFields .., fieldImm_assembleFields ..⟩
  | ldi rd imm =>
    have hopc : fieldOpc (encode (.ldi rd imm)) = 0x02 := fieldOpc_assembleFields ..
    have himm : (fieldImm (encode (.ldi rd imm))).toNat = imm := by
      rw [encode, fieldImm_assembleFields, BitVec.toNat_ofNat]
      exact Nat.mod_eq_of_lt (of_decide_eq_true hi)
    rw [decode_ldi _ hopc, decodeI_eq_ok, himm]
    exact ⟨rd, rfl, fieldRd_assembleFields .., fieldRs_assembleFields ..⟩
  | _ => rfl

theorem wellFormed_and_encode_of_decode {w : Word} {i : Instr} (h : decode w = .ok i) :
    i.WellFormed ∧ encode i = w := by
  obtain ⟨hopc, hrd, hrs, himm, henc, hwf⟩ | ⟨rd, rs, rfl, hopc, hrd, hrs, himm⟩ | ⟨rd, rfl, hopc, hrd, hrs⟩ :=
    decode_cases w i h
  · refine ⟨hwf, henc.trans ?_⟩
    rw [← hopc, ← assembleFields_fields w, hrd, hrs, himm, fieldOpc_assembleFields]
  · refine ⟨rfl, (word_eq_iff_fields _ _).2 ?_⟩
    simp [encode, Instr.opcode, hopc, hrd, hrs, himm]
  · refine ⟨decide_eq_true (fieldImm w).isLt, (word_eq_iff_fields _ _).2 ?_⟩
    simp [encode, Instr.opcode, hopc, hrd, hrs]

/-- A word is a command exactly if the command is well formed and the word is its encoding. -/
theorem decode_eq_ok_iff (w : Word) (i : Instr) : decode w = .ok i ↔ i.WellFormed ∧ encode i = w :=
  ⟨wellFormed_and_encode_of_decode, fun ⟨hi, hw⟩ => hw ▸ decode_encode hi⟩

end Sys2Proof.Proofs
end

section
/-! SUPPORT. Data movement: NOP, MOV and LDI. -/

namespace Sys2Proof.Proofs

open Sys2Proof.Machine Sys2Proof.Claims

/-! ### A completion without error -/

section Completion

variable {s u : State} {i : Instr}

theorem CommandEffect.errs (h : CommandEffect s i u) : u.status.errs = s.status.errs := by
  cases h <;> simp

/-- A command's effect, completed, writes only the registers of R22's table and the record of R96. -/
theorem CommandEffect.succeeds (h : CommandEffect s i u) (hi : i ≠ .primetest) :
    Succeeds s (u.complete none) (writes i) := by
  refine ⟨fun x hx => ?_, ?_, ?_, ?_⟩
  · simpa using h.sameBig x hx
  · simpa [SameControl] using h.sameControl
  · simpa [SameDraws] using h.sameDraws hi
  · simp [Ended, h.errs]

/-- A command outside R28's table leaves every flag. -/
theorem CommandEffect.sameFlags (h : CommandEffect s i u) (hz : writesZ i = false) (hc : i ≠ .cmp) :
    SameFlags s (u.complete none) := by
  have hp : i ≠ .primetest := by
    rintro rfl
    cases hz
  have hflagZ := h.z
  have hcmp := h.comparison
  have hprime := h.prime
  simp only [hz, hc, hp, Bool.false_eq_true, if_false] at hflagZ hcmp hprime
  obtain ⟨heq, hlt, hgt⟩ := hcmp
  exact ⟨hflagZ, heq, hlt, hgt, hprime⟩

end Completion

/-! ### NOP -/

theorem decode_eq_nop_iff (w : Word) : decode w = .ok .nop ↔ w = 0x00000000 := by
  rw [decode_eq_ok_iff, show encode .nop = 0x00000000 by decide, eq_comm]
  exact and_iff_right rfl

/-- A word of opcode 0 with bits 31:8 clear is the word 0. -/
theorem eq_zero_of_fieldOpc_of_shiftRight {w : Word} (hopc : fieldOpc w = 0x00) (hz : w >>> 8 = 0) : w = 0x00000000 :=
  (word_eq_iff_fields w 0).2 ⟨hopc, (shiftRight_eight_eq_zero_iff w).1 hz⟩

theorem cmdWrite_busy (s : State) (w : Word) (hb : s.status.busy = false) :
    (s.hostWrite 0x010 (.word w)).status.busy = true := by
  have hwrite : s.hostWrite 0x010 (.word w) = s.issue w := (hostWrite_creg s .cmd w).trans (writeCreg_cmd_idle w hb)
  rw [hwrite, State.issue_status_busy]

theorem exec_nop (s : State) : exec .nop s = .next (s.complete none) := rfl

/-- Settles O11: its word by `decode_eq_nop_iff`, the illegal words by case (b) of R100, its end by `CommandEffect.nop`. -/
theorem nopResult : Obligations.NopResult := by
  unfold Obligations.NopResult
  refine ⟨decode_eq_nop_iff, fun w hopc hw => ?_, fun s hb => cmdWrite_busy s _ hb, fun s => ?_⟩
  · have hz : w >>> 8 ≠ 0 := fun hz => hw (eq_zero_of_fieldOpc_of_shiftRight hopc hz)
    exact (illegal_iff w).2 (.inr (.inl ⟨hopc ▸ by decide, hz⟩))
  · have heff : CommandEffect s .nop s := .nop
    exact ⟨_, exec_nop s, heff.succeeds (by simp), heff.sameFlags rfl (by simp)⟩

/-! ### MOV -/

theorem decode_eq_mov_iff (w : Word) (rd rs : GReg) : decode w = .ok (.mov rd rs) ↔
    fieldOpc w = 0x01 ∧ fieldRd w = rd.select ∧ fieldRs w = rs.select ∧ fieldImm w = 0 := by
  rw [decode_eq_ok_iff, and_iff_right (by rfl), eq_comm, word_eq_iff_fields]
  simp [encode, Instr.opcode]

theorem exec_mov (s : State) (rd rs : GReg) :
    exec (.mov rd rs) s = .next ((s.setG rd (s.g rs)).complete none) := rfl

/-- Settles O12: its word by `decode_eq_mov_iff`, the illegal words by case (c) of R100, its end by `CommandEffect.mov`. -/
theorem movResult : Obligations.MovResult := by
  unfold Obligations.MovResult
  refine ⟨decode_eq_mov_iff, fun w hopc hw => ?_, fun s rd rs => ?_⟩
  · exact (illegal_iff w).2 (.inr (.inr (.inl ⟨hopc, or_rotate.2 hw⟩)))
  · have heff : CommandEffect s (.mov rd rs) (s.setG rd (s.g rs)) := .mov rd rs
    exact ⟨_, exec_mov s rd rs, heff.succeeds (by simp), by simp, heff.sameFlags rfl (by simp)⟩

/-! ### LDI -/

theorem decode_eq_ldi_iff (w : Word) (rd : GReg) (imm : Nat) : decode w = .ok (.ldi rd imm) ↔
    fieldOpc w = 0x02 ∧ fieldRd w = rd.select ∧ fieldRs w = 0 ∧ (fieldImm w).toNat = imm := by
  constructor
  · intro h
    obtain ⟨hwf, rfl⟩ := wellFormed_and_encode_of_decode h
    have himm : imm < 2 ^ 16 := of_decide_eq_true hwf
    simpa [encode, Instr.opcode] using himm
  · rintro ⟨hopc, hrd, hrs, rfl⟩
    rw [decode_ldi w hopc, decodeI_eq_ok]
    exact ⟨rd, rfl, hrd, hrs⟩

theorem exec_ldi_of_lt_bound (s : State) (rd : GReg) {imm : Nat} (h : imm < s.bound) :
    exec (.ldi rd imm) s = .next ((s.setG rd imm).complete none) := by
  rw [exec, execLdi, if_neg (Nat.not_le.2 h), conclude_ok]

theorem exec_ldi_of_bound_le (s : State) (rd : GReg) {imm : Nat} (h : s.bound ≤ imm) :
    exec (.ldi rd imm) s = .next (s.complete (some .overflow)) := by
  rw [exec, execLdi, if_pos h, conclude_error]

/-- A 16-bit immediate is beyond a legal width only if the width is 8 bits. -/
theorem width_eq_eight_of_bound_le {p : Params} (hp : p.Legal) {imm : Nat} (himm : imm < 2 ^ 16)
    (h : 2 ^ p.width ≤ imm) : p.width = 8 := by
  have hlt : p.width < 16 := (Nat.pow_lt_pow_iff_right (by decide)).1 (h.trans_lt himm)
  have hdvd := hp.width_dvd
  have hge := hp.width_ge
  omega

/-- Settles O13: its word by `decode_eq_ldi_iff`, the illegal words by case (d) of R100, its two ends by whether the
immediate is below the bound. -/
theorem ldiResult : Obligations.LdiResult := by
  unfold Obligations.LdiResult
  refine ⟨decode_eq_ldi_iff, fun w hopc hw => ?_, fun s rd imm h => ?_, fun s rd imm h => ?_, fun p imm hp himm h => ?_⟩
  · exact (illegal_iff w).2 (.inr (.inr (.inr ⟨hopc, hw.symm⟩)))
  · have heff : CommandEffect s (.ldi rd imm) (s.setG rd imm) := .ldi rd imm
    exact ⟨_, exec_ldi_of_lt_bound s rd h, heff.succeeds (by simp), by simp, heff.sameFlags rfl (by simp)⟩
  · exact ⟨_, exec_ldi_of_bound_le s rd h, errsFrom_complete s .overflow⟩
  · have hwidth := width_eq_eight_of_bound_le hp himm h
    rw [hwidth] at h
    exact ⟨hwidth, h⟩

end Sys2Proof.Proofs
end

section
/-! SUPPORT. Plain arithmetic and comparison: ADD, SUB, MUL, DIV, MOD, CMP and GCD. -/

namespace Sys2Proof.Proofs

open Sys2Proof.Machine Sys2Proof.Claims

/-! ### The word and the end of a command that writes R and Z -/

theorem decode_eq_ok_iff_eq {i : Instr} {v : Word} (hi : i.WellFormed) (henc : encode i = v) (w : Word) :
    decode w = .ok i ↔ w = v := by
  rw [decode_eq_ok_iff, henc, and_iff_right hi, eq_comm]

section Result

variable {s u : State} {i : Instr} {v : Nat}

theorem CommandEffect.sameFlagsButZ (h : CommandEffect s i u) (hc : i ≠ .cmp) (hp : i ≠ .primetest) :
    SameFlagsButZ s (u.complete none) := by
  have hcmp := h.comparison
  have hprime := h.prime
  simp only [hc, hp, if_false] at hcmp hprime
  obtain ⟨heq, hlt, hgt⟩ := hcmp
  exact ⟨heq, hlt, hgt, hprime⟩

theorem ne_cmp_of_writesZ (hz : writesZ i = true) : i ≠ .cmp := by
  rintro rfl
  cases hz

/-- A command that concludes with `G[R] <- v; Z <- (v = 0)` gives the result `v`. -/
theorem givesResult_of_conclude (hw : writes i = [.gen .R]) (hz : writesZ i = true) (hp : i ≠ .primetest)
    (hexec : exec i s = .next (s.conclude (.ok (s.writeResult v)))) : GivesResult i s v := by
  have heff : CommandEffect s i (s.writeResult v) := .result i v hw hz hp
  exact ⟨_, hexec, hw ▸ heff.succeeds hp, rfl, beq_iff_eq, heff.sameFlagsButZ (ne_cmp_of_writesZ hz) hp⟩

/-- A command that raises `e` if `c` holds and gives the result `v` otherwise does one or the other. -/
theorem result_or_error_of_conclude {c : Prop} [Decidable c] {e : CmdError} (hw : writes i = [.gen .R])
    (hz : writesZ i = true) (hp : i ≠ .primetest)
    (hexec : exec i s = .next (s.conclude (if c then .error e else .ok (s.writeResult v)))) :
    (¬ c → GivesResult i s v) ∧ (c → EndsInError i s e) := by
  constructor <;> intro hc
  · rw [if_neg hc] at hexec
    exact givesResult_of_conclude hw hz hp hexec
  · rw [if_pos hc] at hexec
    exact ⟨_, hexec, errsFrom_complete s e⟩

end Result

/-! ### GCD -/

/-- The equation of R137's loop, which the depth bound of `gcdLoop` does not disturb. -/
theorem euclidGcd_eq_ite (a b : Nat) : euclidGcd a b = if b = 0 then a else euclidGcd b (a % b) := by
  split
  · next hb => rw [hb, euclidGcd_zero]
  · rw [euclidGcd_eq_gcd, euclidGcd_eq_gcd, Nat.gcd_comm a b, Nat.gcd_rec b a, Nat.gcd_comm]

theorem exec_gcd (s : State) : exec .gcd s = .next (s.conclude (.ok (s.writeResult (Nat.gcd s.regA s.regB)))) := by
  rw [exec, execGcd, euclidGcd_eq_gcd]

/-- Settles O20: Euclid's loop is `Nat.gcd`, and GCD writes its value. -/
theorem gcdResult : Obligations.GcdResult := by
  unfold Obligations.GcdResult
  exact ⟨decode_eq_ok_iff_eq rfl (by decide), fun s => givesResult_of_conclude rfl rfl (by simp) (exec_gcd s),
    euclidGcd_eq_ite⟩

/-! ### ADD, SUB, MUL and MOD -/

theorem exec_add (s : State) : exec .add s = .next (s.conclude
    (if s.bound ≤ s.regA + s.regB then .error .overflow else .ok (s.writeResult (s.regA + s.regB)))) := rfl

theorem exec_sub (s : State) : exec .sub s = .next (s.conclude
    (if s.regA < s.regB then .error .underflow else .ok (s.writeResult (s.regA - s.regB)))) := rfl

theorem exec_mul (s : State) : exec .mul s = .next (s.conclude
    (if s.bound ≤ s.regA * s.regB then .error .overflow else .ok (s.writeResult (s.regA * s.regB)))) := rfl

theorem exec_mod (s : State) : exec .mod s = .next (s.conclude
    (if s.regN = 0 then .error .modZero else .ok (s.writeResult (s.regA % s.regN)))) := rfl

/-- Settles O14: its two ends by whether the sum is below the bound. -/
theorem addResult : Obligations.AddResult := by
  unfold Obligations.AddResult
  refine ⟨decode_eq_ok_iff_eq rfl (by decide), fun s => ?_⟩
  obtain ⟨hfits, hover⟩ := result_or_error_of_conclude rfl rfl (by simp) (exec_add s)
  exact ⟨fun h => hfits (Nat.not_le.2 h), hover⟩

/-- Settles O15: its two ends by whether B is at most A. -/
theorem subResult : Obligations.SubResult := by
  unfold Obligations.SubResult
  refine ⟨decode_eq_ok_iff_eq rfl (by decide), fun s => ?_⟩
  obtain ⟨hfits, hunder⟩ := result_or_error_of_conclude rfl rfl (by simp) (exec_sub s)
  exact ⟨fun h => hfits (Nat.not_lt.2 h), hunder⟩

/-- Settles O16: its two ends by whether the product is below the bound. -/
theorem mulResult : Obligations.MulResult := by
  unfold Obligations.MulResult
  refine ⟨decode_eq_ok_iff_eq rfl (by decide), fun s => ?_⟩
  obtain ⟨hfits, hover⟩ := result_or_error_of_conclude rfl rfl (by simp) (exec_mul s)
  exact ⟨fun h => hfits (Nat.not_le.2 h), hover⟩

/-- Settles O18: its two ends by whether N is 0. -/
theorem modResult : Obligations.ModResult := by
  unfold Obligations.ModResult
  exact ⟨decode_eq_ok_iff_eq rfl (by decide), fun s => result_or_error_of_conclude rfl rfl (by simp) (exec_mod s)⟩

/-! ### DIV -/

theorem exec_div_of_ne_zero {s : State} (h : s.regB ≠ 0) : exec .div s =
    .next (((s.writeResult (s.regA / s.regB)).setG .S (s.regA % s.regB)).complete none) := by
  rw [exec, execDiv, if_neg h, conclude_ok]

theorem exec_div_of_eq_zero {s : State} (h : s.regB = 0) : exec .div s = .next (s.complete (some .divZero)) := by
  rw [exec, execDiv, if_pos h, conclude_error]

/-- Settles O17: the division equation pins the quotient and the remainder, its effect is `CommandEffect.div`. -/
theorem divResult : Obligations.DivResult := by
  unfold Obligations.DivResult
  refine ⟨decode_eq_ok_iff_eq rfl (by decide), fun s => ⟨fun h => ?_, fun h => ?_⟩⟩
  · have heff : CommandEffect s .div ((s.writeResult (s.regA / s.regB)).setG .S (s.regA % s.regB)) := .div _ _
    exact ⟨_, _, _, exec_div_of_ne_zero h, (Nat.div_add_mod s.regA s.regB).symm,
      Nat.mod_lt _ (Nat.pos_of_ne_zero h), rfl, rfl, heff.z, heff.sameFlagsButZ (by simp) (by simp),
      heff.succeeds (by simp)⟩
  · exact ⟨_, exec_div_of_eq_zero h, errsFrom_complete s .divZero⟩

/-! ### CMP -/

theorem exec_cmp (s : State) : exec .cmp s = .next ((s.flagCompare s.regA s.regB).complete none) := rfl

/-- Exactly one of the three flags that `flagCompare` writes is set (R34). -/
theorem count_comparison_flags (a b : Nat) : [a == b, decide (a < b), decide (b < a)].count true = 1 := by
  obtain h | rfl | h := Nat.lt_trichotomy a b
  · simp [h, h.ne, h.not_gt]
  · simp
  · simp [h, h.ne', h.not_gt]

/-- Settles O19: its effect is `CommandEffect.cmp`, and of the three flags trichotomy sets one. -/
theorem cmpResult : Obligations.CmpResult := by
  unfold Obligations.CmpResult
  refine ⟨decode_eq_ok_iff_eq rfl (by decide), fun s => ?_⟩
  have heff : CommandEffect s .cmp (s.flagCompare s.regA s.regB) := .cmp
  obtain ⟨heq, hlt, hgt⟩ := heff.comparison
  exact ⟨_, exec_cmp s, heff.succeeds (by simp), heq, hlt, hgt, rfl, rfl, count_comparison_flags s.regA s.regB⟩

end Sys2Proof.Proofs
end

section
/-! SUPPORT. Modular arithmetic: the inverse by extended Euclid, MULMOD, MODEXP and MONTMUL. -/

namespace Sys2Proof.Proofs

open Sys2Proof.Machine Sys2Proof.Claims

/-! ### The modular inverse -/

/-- The identity of R170: each step of the recursion keeps it, by `b = a * (b / a) + b % a`. -/
theorem bezout_identity (a b : Nat) : (a : Int) * (bezout a b).1 + b * (bezout a b).2 = Nat.gcd a b := by
  induction a, b using Nat.gcd.induction with
  | H0 b => simp [bezout_zero]
  | H1 a b ha ih =>
    have hdiv : (a : Int) * (b / a : Nat) + (b % a : Nat) = b := by exact_mod_cast Nat.div_add_mod b a
    rw [bezout_pos a b ha.ne', Nat.gcd_rec, ← ih]
    linear_combination -(bezout (b % a) a).1 * hdiv

section Coprime

variable {a n : Nat} (hco : Nat.Coprime a n)

include hco

theorem mul_modInverse_modEq_one (hn : 0 < n) : a * modInverse a n ≡ 1 [MOD n] := by
  have hcast : (modInverse a n : Int) = (bezout a n).1 % n :=
    Int.toNat_of_nonneg (Int.emod_nonneg _ (by omega))
  have hid : (a : Int) * (bezout a n).1 + n * (bezout a n).2 = 1 := by exact_mod_cast hco ▸ bezout_identity a n
  rw [← Int.natCast_modEq_iff]
  push_cast
  calc (a : Int) * modInverse a n
      ≡ a * (bezout a n).1 [ZMOD n] := by
        rw [hcast]
        exact (Int.mod_modEq _ _).mul_left _
    _ ≡ a * (bezout a n).1 + n * (bezout a n).2 [ZMOD n] := by simp [Int.ModEq]
    _ = 1 := hid

/-- Residues are told apart by their products with a number coprime to the modulus. -/
theorem mul_mod_eq_iff_of_coprime {m r v : Nat} (hr : r < n) (hv : v < n) (hm : a * v ≡ m [MOD n]) :
    a * r % n = m % n ↔ r = v := by
  constructor
  · intro h
    exact (Nat.ModEq.cancel_left_of_coprime hco.symm (Nat.ModEq.trans h hm.symm)).eq_of_lt_of_lt hr hv
  · rintro rfl
    exact hm

end Coprime

/-! ### Commands that check their operands -/

theorem endsInError_of_conclude {s : State} {i : Instr} {e : CmdError}
    (hexec : exec i s = .next (s.conclude (.error e))) : EndsInError i s e := ⟨_, hexec, errsFrom_complete s e⟩

/-! ### MULMOD and MODEXP -/

theorem exec_mulmod (s : State) : exec .mulmod s = .next (s.conclude
    (if s.regN = 0 then .error .modZero else .ok (s.writeResult (s.regA * s.regB % s.regN)))) := rfl

/-- Settles O21: its two ends by whether N is 0. -/
theorem mulmodResult : Obligations.MulmodResult := by
  unfold Obligations.MulmodResult
  exact ⟨decode_eq_ok_iff_eq rfl (by decide), fun s => result_or_error_of_conclude rfl rfl (by simp) (exec_mulmod s)⟩

/-- The loop over the `W` bits of the exponent sees all of B, since B is below `2^W`. -/
theorem exec_modexp {s : State} (hs : s.Inv) : exec .modexp s = .next (s.conclude
    (if s.regN = 0 then .error .modZero else .ok (s.writeResult (s.regA ^ s.regB % s.regN)))) := by
  have hB : s.regB < 2 ^ s.params.width := hs.general_lt .B
  rw [exec, execModexp, powMod_eq _ _ _ _ hB]

/-- Settles O23: the loop of R155 is the power, by `exec_modexp`, and its two ends are told by whether N is 0. -/
theorem modexpResult : Obligations.ModexpResult := by
  unfold Obligations.ModexpResult
  exact ⟨decode_eq_ok_iff_eq rfl (by decide),
    fun s hs => result_or_error_of_conclude rfl rfl (by simp) (exec_modexp hs)⟩

/-! ### MONTMUL -/

theorem two_pow_coprime_of_odd (w : Nat) {n : Nat} (hn : n % 2 = 1) : Nat.Coprime (2 ^ w) n :=
  Nat.Coprime.pow_left w (Nat.coprime_two_left.2 (Nat.odd_iff.2 hn))

/-- The characterisation of R151: the factor `2^W` cancels against its inverse in the formula. -/
theorem two_pow_mul_montMul_modEq (w a b : Nat) {n : Nat} (hn : n % 2 = 1) :
    2 ^ w * montMul w a b n ≡ a * b [MOD n] :=
  calc 2 ^ w * montMul w a b n
      ≡ 2 ^ w * (a * b * modInverse (2 ^ w) n) [MOD n] := (Nat.mod_modEq _ _).mul_left _
    _ = a * b * (2 ^ w * modInverse (2 ^ w) n) := by ring
    _ ≡ a * b * 1 [MOD n] := (mul_modInverse_modEq_one (two_pow_coprime_of_odd w hn) (by omega)).mul_left _
    _ = a * b := mul_one _

section Montmul

variable {s : State}

theorem exec_montmul (s : State) : exec .montmul s = .next (s.conclude
    (if s.regN = 0 then .error .modZero
    else if s.regN % 2 = 0 then .error .modEven
    else if s.regN ≤ s.regA ∨ s.regN ≤ s.regB then .error .range
    else .ok (s.writeResult (montMul s.params.width s.regA s.regB s.regN)))) := rfl

theorem montmul_modZero (hN : s.regN = 0) : EndsInError .montmul s .modZero :=
  endsInError_of_conclude (by rw [exec_montmul, if_pos hN])

theorem montmul_modEven (hN : s.regN ≠ 0) (heven : s.regN % 2 = 0) : EndsInError .montmul s .modEven :=
  endsInError_of_conclude (by rw [exec_montmul, if_neg hN, if_pos heven])

theorem exec_montmul_of_odd (hodd : s.regN % 2 = 1) : exec .montmul s = .next (s.conclude
    (if s.regN ≤ s.regA ∨ s.regN ≤ s.regB then .error .range
    else .ok (s.writeResult (montMul s.params.width s.regA s.regB s.regN)))) := by
  rw [exec_montmul, if_neg (by omega), if_neg (by omega)]

/-- For odd N the operands' range decides between the result and RANGE. -/
theorem montmul_of_odd (hodd : s.regN % 2 = 1) :
    (¬ (s.regN ≤ s.regA ∨ s.regN ≤ s.regB) →
      GivesResult .montmul s (montMul s.params.width s.regA s.regB s.regN)) ∧
    (s.regN ≤ s.regA ∨ s.regN ≤ s.regB → EndsInError .montmul s .range) :=
  result_or_error_of_conclude rfl rfl (by simp) (exec_montmul_of_odd hodd)

end Montmul

/-- Settles O22: `2^W` is invertible modulo an odd N, so `RINV` and the result are each the one residue that multiplies
with it to 1 and to `A * B`; the errors by the checks in their order. -/
theorem montmulResult : Obligations.MontmulResult := by
  unfold Obligations.MontmulResult
  refine ⟨decode_eq_ok_iff_eq rfl (by decide), fun s => ⟨fun hodd hA hB => ?_, montmul_modZero, montmul_modEven,
    fun hodd => (montmul_of_odd hodd).2⟩⟩
  have hN : 0 < s.regN := by omega
  have hco : Nat.Coprime (2 ^ s.params.width) s.regN := two_pow_coprime_of_odd _ hodd
  have hrinv := modInverse_lt (2 ^ s.params.width) s.regN hN
  have hval := montMul_lt s.params.width s.regA s.regB s.regN hN
  refine ⟨modInverse (2 ^ s.params.width) s.regN, montMul s.params.width s.regA s.regB s.regN, fun r hr => ?_, hrinv, rfl,
    fun r hr => ?_, (montmul_of_odd hodd).1 (by omega)⟩
  · exact mul_mod_eq_iff_of_coprime hco hr hrinv (mul_modInverse_modEq_one hco hN)
  · rw [Nat.mul_comm r]
    exact mul_mod_eq_iff_of_coprime hco hr hval (two_pow_mul_montMul_modEq _ _ _ hodd)

end Sys2Proof.Proofs
end

section
/-! SUPPORT. Extended Euclid: the bounds of the Bezout pair, BEZOUT and MODINV. -/

namespace Sys2Proof.Proofs

open Sys2Proof.Machine Sys2Proof.Claims

/-! ### The recursion and its bounds -/

/-- Settles O26 by `bezout_zero`, `bezout_pos` and `bezout_identity`. -/
theorem bezoutRecursion : Obligations.BezoutRecursion := by
  unfold Obligations.BezoutRecursion
  exact ⟨bezout_zero, bezout_pos, bezout_identity⟩

/-- The bounds of R172: for a remainder above 0 they add up to `b % a + (b / a) * a = b`; for the remainder 0 the pair
is known. -/
theorem natAbs_bezout_le (a b : Nat) : (bezout a b).1.natAbs ≤ max b 1 ∧ (bezout a b).2.natAbs ≤ max a 1 := by
  induction a, b using Nat.gcd.induction with
  | H0 b => simp [bezout_zero]
  | H1 a b ha ih =>
    obtain ⟨hs, ht⟩ := ih
    rw [bezout_pos a b ha.ne']
    refine ⟨?_, hs⟩
    obtain hr | hr := Nat.eq_zero_or_pos (b % a)
    · simp [hr, bezout_zero]
    · calc ((bezout (b % a) a).2 - (b / a : Nat) * (bezout (b % a) a).1).natAbs
          ≤ (bezout (b % a) a).2.natAbs + ((b / a : Nat) * (bezout (b % a) a).1).natAbs := Int.natAbs_sub_le _ _
        _ = (bezout (b % a) a).2.natAbs + b / a * (bezout (b % a) a).1.natAbs := by
          rw [Int.natAbs_mul, Int.natAbs_natCast]
        _ ≤ b % a + b / a * a := Nat.add_le_add (by omega) (Nat.mul_le_mul_left _ (by omega))
        _ = b := Nat.mod_add_div' b a
        _ ≤ max b 1 := le_max_left b 1

/-- The product that a step of the recursion forms is at most its second argument. -/
theorem div_mul_natAbs_bezout_le {a : Nat} (b : Nat) (ha : a ≠ 0) :
    b / a * (bezout (b % a) a).1.natAbs ≤ b := by
  have hs : (bezout (b % a) a).1.natAbs ≤ a := by
    have := (natAbs_bezout_le (b % a) a).1
    omega
  exact (Nat.mul_le_mul_left _ hs).trans (Nat.div_mul_le_self b a)

section Width

variable {w a b : Nat}

theorem natAbs_bezout_lt (hw : 0 < w) (ha : a < 2 ^ w) (hb : b < 2 ^ w) :
    (bezout a b).1.natAbs < 2 ^ w ∧ (bezout a b).2.natAbs < 2 ^ w := by
  have hone : 1 < 2 ^ w := Nat.one_lt_two_pow hw.ne'
  have hle := natAbs_bezout_le a b
  omega

theorem two_pow_le_two_pow_double (hw : 0 < w) : 2 ^ w ≤ 2 ^ (2 * w - 1) :=
  Nat.pow_le_pow_right (by decide) (by omega)

/-- What is below `2^w` in absolute value is in the range of a `2w`-bit signed integer. -/
theorem signed_range_of_natAbs_lt (hw : 0 < w) {z : Int} (hz : z.natAbs < 2 ^ w) :
    -(2 : Int) ^ (2 * w - 1) ≤ z ∧ z < 2 ^ (2 * w - 1) := by
  have habs : (z.natAbs : Int) < 2 ^ (2 * w - 1) := by exact_mod_cast hz.trans_le (two_pow_le_two_pow_double hw)
  omega

end Width

/-- Settles O27: the bounds by `natAbs_bezout_le`, the pair's range by `signed_range_of_natAbs_lt`, the products by
`div_mul_natAbs_bezout_le`. -/
theorem bezoutBounds : Obligations.BezoutBounds := by
  unfold Obligations.BezoutBounds
  refine ⟨natAbs_bezout_le, fun w a b hw ha hb => ?_⟩
  have hpos : 0 < w := by omega
  obtain ⟨hx, hy⟩ := natAbs_bezout_lt hpos ha hb
  obtain ⟨hxlow, hxhigh⟩ := signed_range_of_natAbs_lt hpos hx
  obtain ⟨hylow, hyhigh⟩ := signed_range_of_natAbs_lt hpos hy
  refine ⟨hx, hy, hxlow, hxhigh, hylow, hyhigh, fun ha0 => ?_⟩
  have hprod := (div_mul_natAbs_bezout_le b ha0).trans_lt hb
  exact ⟨hprod.trans (Nat.pow_lt_pow_succ (by decide)), hprod.trans_le (two_pow_le_two_pow_double hpos)⟩

/-! ### BEZOUT -/

theorem natCast_tc (k : Nat) (z : Int) : (tc k z : Int) = z % 2 ^ k := by
  rw [tc, Int.toNat_of_nonneg (Int.emod_nonneg _ (by positivity))]
  push_cast
  rfl

theorem exec_bezout (s : State) : exec .bezout s =
    .next (((s.setSigned (bezout s.regA s.regB).1 (bezout s.regA s.regB).2).writeResult
      (Nat.gcd s.regA s.regB)).complete none) := by
  rw [exec, execBezout, conclude_ok, euclidGcd_eq_gcd]

/-- Settles O28: its effect is `CommandEffect.euclid`, its encodings are `tc`, and only 0 and 0 have the gcd 0. -/
theorem bezoutResult : Obligations.BezoutResult := by
  unfold Obligations.BezoutResult
  refine ⟨decode_eq_ok_iff_eq rfl (by decide), fun s => ?_⟩
  have heff : CommandEffect s .bezout _ :=
    .euclid _ (bezout s.regA s.regB).1 (bezout s.regA s.regB).2 (Nat.gcd s.regA s.regB) (.inl rfl)
  exact ⟨_, exec_bezout s, heff.succeeds (by simp), natCast_tc _ _, natCast_tc _ _, rfl,
    heff.z.trans Nat.gcd_eq_zero_iff, heff.sameFlagsButZ (by simp) (by simp)⟩

/-! ### MODINV -/

theorem natCast_modInverse (a : Nat) {n : Nat} (hn : n ≠ 0) : (modInverse a n : Int) = (bezout a n).1 % n :=
  Int.toNat_of_nonneg (Int.emod_nonneg _ (by exact_mod_cast hn))

/-- The inverse is 0 only modulo 1, since `a * 0` is congruent to 1 there only. -/
theorem modInverse_eq_zero_iff {a n : Nat} (hco : Nat.Coprime a n) (hn : 0 < n) : modInverse a n = 0 ↔ n = 1 := by
  constructor
  · intro h
    have hinv := mul_modInverse_modEq_one hco hn
    rw [h, Nat.mul_zero] at hinv
    exact Nat.dvd_one.1 ((Nat.modEq_zero_iff_dvd).1 hinv.symm)
  · rintro rfl
    exact Nat.lt_one_iff.1 (modInverse_lt a 1 hn)

section Modinv

variable {s : State}

theorem exec_modinv (s : State) : exec .modinv s = .next (s.conclude
    (if s.regN = 0 then .error .modZero
    else if Nat.gcd s.regA s.regN ≠ 1 then .error .notInvertible
    else .ok ((s.setSigned (bezout s.regA s.regN).1 (bezout s.regA s.regN).2).writeResult
      (modInverse s.regA s.regN)))) := by
  rw [exec, execModinv, euclidGcd_eq_gcd]

theorem modinv_modZero (hN : s.regN = 0) : EndsInError .modinv s .modZero :=
  endsInError_of_conclude (by rw [exec_modinv, if_pos hN])

theorem modinv_notInvertible (hN : s.regN ≠ 0) (hco : Nat.gcd s.regA s.regN ≠ 1) :
    EndsInError .modinv s .notInvertible :=
  endsInError_of_conclude (by rw [exec_modinv, if_neg hN, if_pos hco])

theorem exec_modinv_of_coprime (hN : s.regN ≠ 0) (hco : Nat.gcd s.regA s.regN = 1) : exec .modinv s =
    .next (((s.setSigned (bezout s.regA s.regN).1 (bezout s.regA s.regN).2).writeResult
      (modInverse s.regA s.regN)).complete none) := by
  rw [exec_modinv, if_neg hN, if_neg (not_not.2 hco), conclude_ok]

end Modinv

/-- Settles O29: the errors by the checks in their order, the effect by `CommandEffect.euclid`; the inverse is the one
residue whose product with A is congruent to 1. -/
theorem modinvResult : Obligations.ModinvResult := by
  unfold Obligations.ModinvResult
  refine ⟨decode_eq_ok_iff_eq rfl (by decide),
    fun s => ⟨modinv_modZero, modinv_notInvertible, fun hN hco => ?_⟩⟩
  have hpos : 0 < s.regN := Nat.pos_of_ne_zero hN
  have heff : CommandEffect s .modinv _ :=
    .euclid _ (bezout s.regA s.regN).1 (bezout s.regA s.regN).2 (modInverse s.regA s.regN) (.inr rfl)
  exact ⟨_, exec_modinv_of_coprime hN hco, heff.succeeds (by simp), natCast_tc _ _, natCast_tc _ _,
    natCast_modInverse _ hN,
    fun r hr => mul_mod_eq_iff_of_coprime hco hr (modInverse_lt _ _ hpos) (mul_modInverse_modEq_one hco hpos),
    heff.z, modInverse_eq_zero_iff hco hpos, heff.sameFlagsButZ (by simp) (by simp)⟩

/-! ### The properties seen through the registers (R174) -/

/-- The `2w`-bit encodings of a Bezout pair of `w`-bit operands give the pair back. -/
theorem sval_tc_bezout {w a b : Nat} (hw : 0 < w) (ha : a < 2 ^ w) (hb : b < 2 ^ w) :
    sval (2 * w) (tc (2 * w) (bezout a b).1) = (bezout a b).1 ∧
    sval (2 * w) (tc (2 * w) (bezout a b).2) = (bezout a b).2 := by
  obtain ⟨hx, hy⟩ := natAbs_bezout_lt hw ha hb
  obtain ⟨hxlow, hxhigh⟩ := signed_range_of_natAbs_lt hw hx
  obtain ⟨hylow, hyhigh⟩ := signed_range_of_natAbs_lt hw hy
  exact ⟨sval_tc _ _ (by omega) hxlow hxhigh, sval_tc _ _ (by omega) hylow hyhigh⟩

theorem status_err_of_endsInError {i : Instr} {s t : State} {e : CmdError} (h : EndsInError i s e)
    (ht : exec i s = .next t) : t.status.err = some e := by
  obtain ⟨u, hu, -, -, -, -, herr, -⟩ := h
  obtain rfl : u = t := Host.Outcome.next.inj (hu.symm.trans ht)
  exact herr

/-- A MODINV that ended without error had a modulus above 0 that is coprime to A. -/
theorem coprime_of_modinv_succeeds {s t : State} (ht : exec .modinv s = .next t) (herr : t.status.err = none) :
    s.regN ≠ 0 ∧ Nat.gcd s.regA s.regN = 1 := by
  have not_error {e : CmdError} (h : EndsInError .modinv s e) : False := by
    have := herr.symm.trans (status_err_of_endsInError h ht)
    cases this
  have hN : s.regN ≠ 0 := fun h => not_error (modinv_modZero h)
  exact ⟨hN, by_contra fun h => not_error (modinv_notInvertible hN h)⟩

/-- Settles O30: after BEZOUT the registers decode to the pair of `bezout_identity`; after MODINV R is the inverse. -/
theorem euclidPropertiesAtTheInterface : Obligations.EuclidPropertiesAtTheInterface := by
  unfold Obligations.EuclidPropertiesAtTheInterface
  refine fun s t hs => ⟨fun ht => ?_, fun ht herr => ?_⟩
  · obtain rfl := Host.Outcome.next.inj ((exec_bezout s).symm.trans ht)
    have hwidth : 0 < s.params.width := Nat.zero_lt_of_lt hs.legal.width_ge
    have hA : s.regA < 2 ^ s.params.width := hs.general_lt .A
    have hB : s.regB < 2 ^ s.params.width := hs.general_lt .B
    obtain ⟨hx, hy⟩ := sval_tc_bezout hwidth hA hB
    simpa [hx, hy] using bezout_identity s.regA s.regB
  · obtain ⟨hN, hco⟩ := coprime_of_modinv_succeeds ht herr
    obtain rfl := Host.Outcome.next.inj ((exec_modinv_of_coprime hN hco).symm.trans ht)
    have hpos : 0 < s.regN := Nat.pos_of_ne_zero hN
    exact ⟨mul_modInverse_modEq_one hco hpos, modInverse_lt _ _ hpos⟩

end Sys2Proof.Proofs
end

section
/-! SUPPORT. PRIMETEST: trial division, the split of `N - 1`, the rounds of stage (b) and the end of the command. -/

namespace Sys2Proof.Proofs

open Sys2Proof.Machine Sys2Proof.Claims

/-! ### Trial division (stage (a) of R186) -/

theorem trialDivision_eq_none {n : Nat} : ∀ {l : List Nat}, (∀ q ∈ l, n % q ≠ 0) → trialDivision n l = none
  | [], _ => rfl
  | p :: rest, h => by
    obtain ⟨hp, hrest⟩ := List.forall_mem_cons.1 h
    have hne : n ≠ p := by
      rintro rfl
      exact hp (Nat.mod_self n)
    rw [trialDivision, if_neg hne, if_neg hp, trialDivision_eq_none hrest]

/-- A candidate that some prime of the table divides is decided by whether it is in the table itself (R188): no other
prime divides a prime. -/
theorem trialDivision_eq_some {n : Nat} : ∀ {l : List Nat}, (∀ q ∈ l, q.Prime) → (∃ q ∈ l, n % q = 0) →
    trialDivision n l = some (decide (n ∈ l))
  | p :: rest, hprimes, hdiv => by
    obtain ⟨hp, hrest⟩ := List.forall_mem_cons.1 hprimes
    rw [trialDivision]
    split_ifs with heq hmod
    · simp [heq]
    · have hnot : n ∉ rest := fun hmem =>
        heq ((Nat.prime_dvd_prime_iff_eq hp (hrest n hmem)).1 (Nat.dvd_of_mod_eq_zero hmod)).symm
      simp [heq, hnot]
    · have hdiv' : ∃ q ∈ rest, n % q = 0 := by simpa [hmod] using hdiv
      simp [trialDivision_eq_some hrest hdiv', heq]

/-! ### The split of `N - 1` (R186) -/

theorem splitLoop_mul_two_pow {d : Nat} (hd : d % 2 = 1) :
    ∀ k fuel r : Nat, k ≤ fuel → splitLoop fuel (d * 2 ^ k) r = (d, r + k)
  | 0, 0, r, _ => by simp [splitLoop]
  | 0, fuel + 1, r, _ => by simp [splitLoop, hd]
  | k + 1, fuel + 1, r, h => by
    have heven : d * 2 ^ (k + 1) = d * 2 ^ k * 2 := by ring
    rw [splitLoop, heven, if_pos (Nat.mul_mod_left _ 2), Nat.mul_div_cancel _ (by decide),
      splitLoop_mul_two_pow hd k fuel (r + 1) (by omega)]
    congr 1
    omega

/-- An odd factor and a power of two are the split: the loop halves once per factor 2, and `m` bounds their number. -/
theorem splitPow2_eq {m d r : Nat} (hd : d % 2 = 1) (hm : m = d * 2 ^ r) : splitPow2 m = (d, r) := by
  have hfuel : r ≤ m := calc
    r ≤ 2 ^ r := Nat.lt_two_pow_self.le
    _ ≤ d * 2 ^ r := Nat.le_mul_of_pos_left _ (by omega)
    _ = m := hm.symm
  have hloop := splitLoop_mul_two_pow hd r m 0 hfuel
  rwa [← hm, Nat.zero_add] at hloop

/-- The split of a positive number has an odd first part and gives the number back. -/
theorem splitPow2_spec {m : Nat} (hm : m ≠ 0) :
    (splitPow2 m).1 % 2 = 1 ∧ m = (splitPow2 m).1 * 2 ^ (splitPow2 m).2 := by
  obtain ⟨r, d, hodd, hsplit⟩ := Nat.exists_eq_two_pow_mul_odd hm
  have hd : d % 2 = 1 := Nat.odd_iff.1 hodd
  have hm' : m = d * 2 ^ r := hsplit.trans (Nat.mul_comm _ _)
  rw [splitPow2_eq hd hm']
  exact ⟨hd, hm'⟩

/-! ### A candidate that reaches stage (b) (R189, R190) -/

theorem odd_and_five_le_of_survives {s : State} (hp : s.params.Legal) (h : Survives s) :
    s.regN % 2 = 1 ∧ 5 ≤ s.regN := by
  obtain ⟨hge, hdiv⟩ := h
  have htwo := hdiv 2 hp.two_mem
  have hthree := hdiv 3 hp.three_mem
  omega

/-- `N - 1` is even, so a split of it has a factor 2. -/
theorem one_le_of_split {n d r : Nat} (hn : n % 2 = 1) (hd : d % 2 = 1) (hsplit : n - 1 = d * 2 ^ r) : 1 ≤ r := by
  by_contra hr
  obtain rfl : r = 0 := by omega
  omega

theorem two_le_witnessOf (n draw : Nat) : 2 ≤ witnessOf n draw := Nat.le_add_right 2 _

theorem witnessOf_le {n : Nat} (hn : 4 ≤ n) (draw : Nat) : witnessOf n draw ≤ n - 2 := by
  have hlt : draw % (n - 3) < n - 3 := Nat.mod_lt _ (by omega)
  unfold witnessOf
  omega

theorem witnessOf_sub_two {n a : Nat} (hn : 4 ≤ n) (hlow : 2 ≤ a) (hhigh : a ≤ n - 2) : witnessOf n (a - 2) = a := by
  rw [witnessOf, Nat.mod_eq_of_lt (by omega)]
  omega

/-- Settles O32: the table's 2 and 3 leave only odd candidates from 5 up, `splitPow2_spec` is the split, and the draw
`a - 2` has the witness `a`. -/
theorem stageBCandidates : Obligations.StageBCandidates := by
  unfold Obligations.StageBCandidates
  intro s hs hsurv
  obtain ⟨hodd, hfive⟩ := odd_and_five_le_of_survives hs.legal hsurv
  obtain ⟨hd, hsplit⟩ := splitPow2_spec (m := s.regN - 1) (by omega)
  have hbound : s.regN < 2 ^ s.params.width := hs.general_lt .N
  refine ⟨hodd, hfive, by omega, one_le_of_split hodd hd hsplit, hd, hsplit,
    fun draw => ⟨two_le_witnessOf _ draw, witnessOf_le (by omega) draw⟩, fun a hlow hhigh => ?_⟩
  exact ⟨a - 2, by omega, witnessOf_sub_two (by omega) hlow hhigh⟩

/-! ### One round (R186, R193) -/

/-- The inner loop squares a power's residue: its `j`-th squaring has the residue of the exponent doubled `j` times. -/
theorem squaresToMinusOne_iff (n a : Nat) : ∀ k e : Nat,
    squaresToMinusOne n k (a ^ e % n) = true ↔ ∃ j, j < k ∧ a ^ (e * 2 ^ (j + 1)) % n = n - 1
  | 0, e => by simp [squaresToMinusOne]
  | k + 1, e => by
    have hsq : a ^ e % n * (a ^ e % n) % n = a ^ (e * 2) % n := by rw [← Nat.mul_mod, ← sq, ← pow_mul]
    have hdouble (j : Nat) : e * 2 ^ (j + 1 + 1) = e * 2 * 2 ^ (j + 1) := by ring
    rw [squaresToMinusOne, hsq, Nat.exists_lt_succ_left]
    simp [squaresToMinusOne_iff n a k (e * 2), hdouble]

theorem witnessPasses_iff {w n d r a : Nat} (hd : d < 2 ^ w) (hr : 1 ≤ r) : witnessPasses w n d r a = true ↔
    a ^ d % n = 1 ∨ ∃ j, j < r ∧ a ^ (d * 2 ^ j) % n = n - 1 := by
  obtain ⟨k, rfl⟩ : ∃ k, r = k + 1 := ⟨r - 1, by omega⟩
  rw [witnessPasses, powMod_eq w a d n hd, Nat.exists_lt_succ_left]
  simp [squaresToMinusOne_iff, or_assoc]

/-- A candidate that survives stage (a) is left to the rounds of stage (b), whatever odd split of `N - 1` one takes. -/
theorem primeTest_of_survives {s : State} {d r : Nat} (hsurv : Survives s) (hd : d % 2 = 1)
    (hsplit : s.regN - 1 = d * 2 ^ r) : s.primeTest = millerRabin s s.regN d r s.rounds.toNat 0 := by
  obtain ⟨hge, hdiv⟩ := hsurv
  rw [State.primeTest, isProbablePrime, if_neg (by omega), trialDivision_eq_none hdiv, splitPow2_eq hd hsplit]

section Rounds

variable {s : State} {d r : Nat} (hs : s.Inv) (hsurv : Survives s) (hd : d % 2 = 1) (hsplit : s.regN - 1 = d * 2 ^ r)

include hs hsurv hd hsplit

theorem witnessPasses_iff_roundPasses (k : Nat) :
    witnessPasses s.params.width s.regN d r (witnessOf s.regN (s.rngAt (s.rngPos + k))) = true ↔ RoundPasses s d r k := by
  have hodd := (odd_and_five_le_of_survives hs.legal hsurv).1
  have hbound : s.regN < 2 ^ s.params.width := hs.general_lt .N
  have hle : d ≤ s.regN - 1 := hsplit ▸ Nat.le_mul_of_pos_right d (Nat.two_pow_pos r)
  exact witnessPasses_iff (by omega) (one_le_of_split hodd hd hsplit)

theorem millerRabin_of_roundPasses {used : Nat} (h : RoundPasses s d r used) (k : Nat) :
    millerRabin s s.regN d r (k + 1) used = millerRabin s s.regN d r k (used + 1) := by
  rw [millerRabin, if_pos ((witnessPasses_iff_roundPasses hs hsurv hd hsplit used).2 h)]

theorem millerRabin_of_not_roundPasses {used : Nat} (h : ¬ RoundPasses s d r used) (k : Nat) :
    millerRabin s s.regN d r (k + 1) used = (false, used + 1) := by
  rw [millerRabin, if_neg ((witnessPasses_iff_roundPasses hs hsurv hd hsplit used).not.2 h)]

/-- `k` rounds that pass leave the rounds after them, with `k` draws more made. -/
theorem millerRabin_add (m : Nat) : ∀ k used : Nat, (∀ j, j < k → RoundPasses s d r (used + j)) →
    millerRabin s s.regN d r (m + k) used = millerRabin s s.regN d r m (used + k)
  | 0, _, _ => rfl
  | k + 1, used, h => by
    have hfirst : RoundPasses s d r used := h 0 (by omega)
    have hrest (j : Nat) (hj : j < k) : RoundPasses s d r (used + 1 + j) :=
      Nat.add_right_comm used j 1 ▸ h (j + 1) (by omega)
    rw [← Nat.add_assoc, millerRabin_of_roundPasses hs hsurv hd hsplit hfirst, millerRabin_add m k (used + 1) hrest,
      Nat.add_right_comm, Nat.add_assoc]

theorem primeTest_of_all_pass (h : ∀ k, k < s.rounds.toNat → RoundPasses s d r k) :
    s.primeTest = (true, s.rounds.toNat) := by
  have hrun := millerRabin_add hs hsurv hd hsplit 0 s.rounds.toNat 0 (by simpa using h)
  rw [primeTest_of_survives hsurv hd hsplit]
  simpa [millerRabin] using hrun

theorem primeTest_of_first_fails {k : Nat} (hk : k < s.rounds.toNat) (hpass : ∀ j, j < k → RoundPasses s d r j)
    (hfail : ¬ RoundPasses s d r k) : s.primeTest = (false, k + 1) := by
  obtain ⟨m, hm⟩ : ∃ m, s.rounds.toNat = m + 1 + k := ⟨s.rounds.toNat - k - 1, by omega⟩
  rw [primeTest_of_survives hsurv hd hsplit, hm,
    millerRabin_add hs hsurv hd hsplit (m + 1) k 0 (by simpa using hpass), Nat.zero_add,
    millerRabin_of_not_roundPasses hs hsurv hd hsplit hfail]

end Rounds

/-! ### The end of PRIMETEST (R185, R187, R188) -/

section Primetest

variable {s : State}

theorem exec_primetest (s : State) : exec .primetest s =
    .next ((((s.takeDraws s.primeTest.2).writeResult (if s.primeTest.1 then 1 else 0)).flagPrime
      s.primeTest.1).complete none) := rfl

theorem testEnds_of_primeTest {verdict : Bool} {used : Nat} (h : s.primeTest = (verdict, used)) :
    TestEnds s verdict used := by
  have heff : CommandEffect s .primetest _ := .primetest
  obtain ⟨heq, hlt, hgt⟩ := heff.comparison
  have hexec := exec_primetest s
  rw [h] at heff hexec
  refine ⟨_, hexec, fun x hx => ?_, heff.sameControl, ⟨rfl, ?_, rfl, rfl⟩, rfl, rfl, ?_, heq, hlt, hgt, rfl, rfl⟩
  · simpa using heff.sameBig x hx
  · simp
  · cases verdict <;> rfl

theorem primeTest_of_lt_two (h : s.regN < 2) : s.primeTest = (false, 0) := if_pos h

theorem primeTest_of_divisible (hp : s.params.Legal) (hge : 2 ≤ s.regN)
    (hdiv : ∃ q ∈ s.params.smallPrimes, s.regN % q = 0) :
    s.primeTest = (decide (s.regN ∈ s.params.smallPrimes), 0) := by
  rw [State.primeTest, isProbablePrime, if_neg (by omega), trialDivision_eq_some hp.primes_prime hdiv]

theorem primeTest_of_mem (hp : s.params.Legal) (hmem : s.regN ∈ s.params.smallPrimes) : s.primeTest = (true, 0) := by
  rw [primeTest_of_divisible hp (hp.primes_prime _ hmem).two_le ⟨_, hmem, Nat.mod_self _⟩, decide_eq_true hmem]

theorem primeTest_of_not_mem (hp : s.params.Legal) (hmem : s.regN ∉ s.params.smallPrimes)
    (hdiv : ∃ q ∈ s.params.smallPrimes, s.regN % q = 0) : s.primeTest = (false, 0) := by
  obtain hlt | hge := Nat.lt_or_ge s.regN 2
  · exact primeTest_of_lt_two hlt
  · rw [primeTest_of_divisible hp hge hdiv, decide_eq_false hmem]

end Primetest

/-- Settles O31: the command records the verdict and the draws of `State.primeTest`, which stage (a) decides by
`trialDivision_eq_some`, and stage (b) by its first failing round. -/
theorem primetestResult : Obligations.PrimetestResult := by
  unfold Obligations.PrimetestResult
  refine ⟨decode_eq_ok_iff_eq rfl (by decide), fun s hs => ⟨fun hlt => ?_, fun hmem => ?_, fun hmem hdiv => ?_,
    fun d r hsurv hd hsplit => ⟨fun hpass => ?_, fun k hk hpass hfail => ?_⟩⟩⟩
  · exact testEnds_of_primeTest (primeTest_of_lt_two hlt)
  · exact testEnds_of_primeTest (primeTest_of_mem hs.legal hmem)
  · exact testEnds_of_primeTest (primeTest_of_not_mem hs.legal hmem hdiv)
  · exact testEnds_of_primeTest (primeTest_of_all_pass hs hsurv hd hsplit hpass)
  · exact testEnds_of_primeTest (primeTest_of_first_fails hs hsurv hd hsplit hk hpass hfail)

end Sys2Proof.Proofs
end

section
/-! SUPPORT. How a command completes: its record in STATUS, the interrupt output, and the error it raises. -/

namespace Sys2Proof.Proofs

open Sys2Proof.Machine Sys2Proof.Claims

/-! ### The record of a completion (R96, R233) -/

/-- Every command ends with the record of R96, whatever its error. -/
theorem exec_ended {i : Instr} {s t : State} (h : exec i s = .next t) : Ended s t t.status.err := by
  obtain ⟨e, rfl⟩ | ⟨u, hu, rfl⟩ := exec_inversion h
  · simp [Ended]
  · simp [Ended, hu.errs]

/-- Settles O37: a command that ends in error leaves only the record of the completion. -/
theorem errorsArePrecise : Obligations.ErrorsArePrecise := by
  unfold Obligations.ErrorsArePrecise
  intro i s t e h herr
  obtain ⟨e', rfl⟩ | ⟨u, -, rfl⟩ := exec_inversion h
  · obtain rfl : e' = e := Option.some.inj herr
    exact errsFrom_complete s e'
  · cases herr

/-! ### The interrupt output (R238) -/

theorem irq_eq_true_iff (s : State) : s.irq = true ↔
    (s.ctrl.ieDone = true ∧ s.status.done = true) ∨ (s.ctrl.ieErr = true ∧ s.status.errs = true) := by
  simp [State.irq]

theorem hostWrite_cmd_idle {s : State} (w : Word) (hb : s.status.busy = false) :
    s.hostWrite 0x010 (.word w) = s.issue w :=
  (hostWrite_creg s .cmd w).trans (writeCreg_cmd_idle w hb)

theorem irq_issue (s : State) (w : Word) : (s.issue w).irq = (s.ctrl.ieErr && s.status.errs) := by
  simp [State.irq]

/-- Settles O60: a completion keeps CTRL and sets DONE, and ERRS if the command erred; an accepted CMD write clears
DONE. -/
theorem interruptLevel : Obligations.InterruptLevel := by
  unfold Obligations.InterruptLevel
  refine ⟨irq_eq_true_iff, fun i s t h => ?_, fun s w hb => ?_⟩
  · obtain ⟨-, hctrl, -⟩ := exec_sameControl h
    obtain ⟨-, herrs, -, hdone⟩ := exec_ended h
    rw [irq_eq_true_iff, hctrl]
    refine ⟨fun hie => .inl ⟨hie, hdone⟩, fun hie herr => .inr ⟨hie, ?_⟩⟩
    rw [herrs, Option.isSome_iff_ne_none.2 herr, Bool.or_true]
  · rw [hostWrite_cmd_idle w hb, irq_issue]

/-! ### The error a command raises (R231, R235) -/

/-- The error command `i` raises in `s`, by the checks of its pseudocode in their order; none if it raises no error. -/
def errorCause (s : State) : Instr → Option CmdError
  | .ldi _ imm => if s.bound ≤ imm then some .overflow else none
  | .add => if s.bound ≤ s.regA + s.regB then some .overflow else none
  | .sub => if s.regA < s.regB then some .underflow else none
  | .mul => if s.bound ≤ s.regA * s.regB then some .overflow else none
  | .div => if s.regB = 0 then some .divZero else none
  | .mod | .mulmod | .modexp => if s.regN = 0 then some .modZero else none
  | .montmul =>
    if s.regN = 0 then some .modZero
    else if s.regN % 2 = 0 then some .modEven
    else if s.regN ≤ s.regA ∨ s.regN ≤ s.regB then some .range
    else none
  | .modinv =>
    if s.regN = 0 then some .modZero else if Nat.gcd s.regA s.regN ≠ 1 then some .notInvertible else none
  | .nop | .mov _ _ | .cmp | .gcd | .bezout | .primetest => none

theorem err_conclude_check (s : State) {c : Prop} [Decidable c] (e : CmdError) {r : Except CmdError State}
    {cause : Option CmdError} (h : (s.conclude r).status.err = cause) :
    (s.conclude (if c then .error e else r)).status.err = if c then some e else cause := by
  subst h
  split <;> rfl

/-- Each check of a command's pseudocode is a check of `errorCause`, in the same place. -/
theorem exec_eq_conclude_err (i : Instr) (s : State) :
    ∃ r, exec i s = .next (s.conclude r) ∧ (s.conclude r).status.err = errorCause s i := by
  cases i with
  | nop | mov _ _ | cmp | gcd | bezout | primetest => exact ⟨_, rfl, rfl⟩
  | ldi _ _ | add | sub | mul | div | mod | mulmod | modexp => exact ⟨_, rfl, err_conclude_check s _ rfl⟩
  | montmul =>
    exact ⟨_, exec_montmul s, err_conclude_check s _ (err_conclude_check s _ (err_conclude_check s _ rfl))⟩
  | modinv => exact ⟨_, exec_modinv s, err_conclude_check s _ (err_conclude_check s _ rfl)⟩

theorem exec_err {i : Instr} {s t : State} (h : exec i s = .next t) : t.status.err = errorCause s i := by
  obtain ⟨r, hr, herr⟩ := exec_eq_conclude_err i s
  obtain rfl := Host.Outcome.next.inj (hr.symm.trans h)
  exact herr

/-! ### The cause of each error (R231) -/

/-- Command `i` has a cause for an error in `s`: R231's list, error by error. ILLEGAL_CMD is the
decoder's, not a command's. -/
def Causes (s : State) (i : Instr) : CmdError → Prop
  | .illegalCmd => False
  | .divZero => i = .div ∧ s.regB = 0
  | .modZero => i ∈ [.mod, .mulmod, .montmul, .modexp, .modinv] ∧ s.regN = 0
  | .overflow => (i = .add ∧ s.bound ≤ s.regA + s.regB) ∨ (i = .mul ∧ s.bound ≤ s.regA * s.regB) ∨
      ∃ rd imm, i = .ldi rd imm ∧ s.bound ≤ imm
  | .underflow => i = .sub ∧ s.regA < s.regB
  | .modEven => i = .montmul ∧ s.regN ≠ 0 ∧ s.regN % 2 = 0
  | .notInvertible => i = .modinv ∧ s.regN ≠ 0 ∧ Nat.gcd s.regA s.regN ≠ 1
  | .range => i = .montmul ∧ s.regN % 2 = 1 ∧ (s.regN ≤ s.regA ∨ s.regN ≤ s.regB)

/-- The first check that fails names the error. -/
theorem check_eq_some_iff {c : Prop} [Decidable c] (d e : CmdError) (r : Option CmdError) :
    (if c then some d else r) = some e ↔ (c ∧ d = e) ∨ (¬ c ∧ r = some e) := by
  split <;> simp [*]

/-- The checks of the commands, in their order, single out the causes of the errors. -/
theorem errorCause_eq_some_iff (s : State) (i : Instr) (e : CmdError) : errorCause s i = some e ↔ Causes s i e := by
  cases i with
  | nop | mov _ _ | cmp | gcd | bezout | primetest => cases e <;> simp [errorCause, Causes]
  | ldi _ _ | add | sub | mul | div | mod | mulmod | modexp | modinv =>
    cases e <;> simp [errorCause, Causes, check_eq_some_iff]
  | montmul =>
    cases e with
    | range =>
      simp only [errorCause, Causes, check_eq_some_iff, reduceCtorEq, and_false, and_true, false_or, or_false, true_and]
      omega
    | _ => simp [errorCause, Causes, check_eq_some_iff]

/-- The engine's turn ends with ILLEGAL_CMD exactly for an illegal word: no command raises that error. -/
theorem engineTurn_err_eq_illegalCmd_iff {s t : State} (hb : s.status.busy = true) (h : s.engineTurn = .next t) :
    t.status.err = some .illegalCmd ↔ ¬ ∃ i, decode s.cmd = .ok i := by
  refine ⟨fun herr => ?_, fun hill => ?_⟩
  · rintro ⟨i, hd⟩
    rw [State.engineTurn, if_pos hb, hd] at h
    rw [exec_err h] at herr
    exact (errorCause_eq_some_iff s i .illegalCmd).1 herr
  · obtain rfl := Host.Outcome.next.inj ((engineTurn_of_illegal hb hill).symm.trans h)
    rfl

/-- Settles O38: ILLEGAL_CMD by `engineTurn_err_eq_illegalCmd_iff`, the other errors by `errorCause_eq_some_iff`. -/
theorem errorCauses : Obligations.ErrorCauses := by
  unfold Obligations.ErrorCauses
  refine ⟨rfl, rfl, rfl, rfl, rfl, rfl, rfl, rfl, rfl, fun s t => engineTurn_err_eq_illegalCmd_iff,
    fun i s t h => ?_⟩
  have cause (e : CmdError) : t.status.err = some e ↔ Causes s i e := by rw [exec_err h, errorCause_eq_some_iff]
  exact ⟨cause .divZero, cause .modZero, cause .overflow, cause .underflow, cause .modEven, cause .notInvertible,
    cause .range⟩

end Sys2Proof.Proofs
end

section
/-! SUPPORT. The host's writes while a command is in flight (R270), by where they go. -/

namespace Sys2Proof.Proofs

open Sys2Proof.Machine Sys2Proof.Claims

variable {s : State}

theorem hostWrite_generalByte_busy {off : Nat} (b : Byte) (hb : s.status.busy = true) (hlow : 0x400 ≤ off)
    (hhigh : off < 0x1800) : s.hostWrite off (.byte b) = s.busyViolation :=
  (hostWrite_byte s off b hlow).trans (writeWindow_busy s off [b] hhigh hb)

theorem hostWrite_generalWord_busy {off : Nat} (v : Word) (hb : s.status.busy = true) (hlow : 0x400 ≤ off)
    (hhigh : off < 0x1800) (h4 : off % 4 = 0) : s.hostWrite off (.word v) = s.busyViolation :=
  (hostWrite_word s off v hlow h4).trans (writeWindow_busy s off (bytesOfWord v) hhigh hb)

theorem hostWrite_status (s : State) (v : Word) :
    s.hostWrite 0x00C (.word v) = { s with status := s.status.clearedBy v } :=
  hostWrite_creg s .status v

/-- ID, CONFIG, RNGCNT and the reserved offsets ignore every write, whatever its size, idle or busy. -/
theorem hostWrite_readOnly (s : State) {off : Nat} (data : BusData)
    (h : off ∈ [0x000, 0x004, 0x018] ∨ (0x01C ≤ off ∧ off < 0x400)) : s.hostWrite off data = s := by
  have hcreg : (off = CReg.id.offset ∨ off = CReg.config.offset ∨ off = CReg.rngcnt.offset) ∨
      (0x01C ≤ off ∧ off < 0x400) := by
    simpa [CReg.offset] using h
  cases data with
  | byte b =>
    refine hostWrite_byte_low s off b (show off < 0x400 from ?_)
    simp only [CReg.offset] at hcreg
    omega
  | word v =>
    obtain (rfl | rfl | rfl) | ⟨hres, hlow⟩ := hcreg
    · exact hostWrite_creg s .id v
    · exact hostWrite_creg s .config v
    · exact hostWrite_creg s .rngcnt v
    · exact hostWrite_reserved s off v hlow (cregAt_reserved off hres)

/-- Settles O48, by where a write goes: CMD, ROUNDS and the general windows are violations, CTRL and STATUS obey their
own rule, and the rest ignore it. -/
theorem busyWrites : Obligations.BusyWrites := by
  unfold Obligations.BusyWrites
  intro s hb
  refine ⟨?_, fun off hlow hhigh b => hostWrite_generalByte_busy b hb hlow hhigh, ?_, ?_, ?_,
    fun off hlow b => hostWrite_byte_low s off b hlow, fun off h4 v => hostWrite_word_unaligned s off v h4⟩
  · rintro off (rfl | rfl | ⟨hlow, hhigh, h4⟩) v
    · exact (hostWrite_creg s .cmd v).trans (writeCreg_cmd_busy v hb)
    · exact (hostWrite_creg s .rounds v).trans (writeCreg_rounds_busy v hb)
    · exact hostWrite_generalWord_busy v hb hlow hhigh h4
  · exact fun v hv => (hostWrite_creg s .ctrl v).trans (writeCreg_ctrl_store s v hv)
  · intro v
    rw [hostWrite_status]
    exact ⟨rfl, rfl⟩
  · rintro off data (hro | hres | ⟨hhigh, -⟩)
    · exact hostWrite_readOnly s data (.inl hro)
    · exact hostWrite_readOnly s data (.inr hres)
    · exact hostWrite_signed s off data hhigh

end Sys2Proof.Proofs
end

section
/-! SUPPORT. Decoding and encoding undo each other (R98, R100). -/

namespace Sys2Proof.Proofs

open Sys2Proof.Machine Sys2Proof.Claims

/-- Settles O1: each field of the word gives its operand back, by `decode_encode`. -/
theorem decodeOfEncode : Obligations.DecodeOfEncode := by
  unfold Obligations.DecodeOfEncode
  exact fun i => decode_encode

/-- Settles O2: a legal word has its format's fields only, by `wellFormed_and_encode_of_decode`. -/
theorem encodeOfDecode : Obligations.EncodeOfDecode := by
  unfold Obligations.EncodeOfDecode
  exact fun w i => wellFormed_and_encode_of_decode

end Sys2Proof.Proofs
end

section
/-! SUPPORT. What a step can do, said once, and what it leaves of the parameters, the randomness input, ERRS and CMD. -/

namespace Sys2Proof.Proofs

open Sys2Proof.Machine Sys2Proof.Claims

/-! ### The state with the schedule moved on -/

/-- `s` with its first scheduled event taken: what the event then acts on. -/
def advance (s : State) : State := { s with events := s.events.tail }

section Advance

variable (s : State)

@[simp] theorem advance_status : (advance s).status = s.status := rfl
@[simp] theorem advance_cmd : (advance s).cmd = s.cmd := rfl

theorem advance_g (x : GReg) : (advance s).g x = s.g x := by cases x <;> rfl

theorem advance_big (x : BigReg) : (advance s).big x = s.big x := by
  cases x with
  | gen x => exact advance_g s x
  | sx => rfl
  | sy => rfl

end Advance

/-! ### One step -/

/-- The states `t` that a step from `s` can give: what the engine's turn, the reset input, a host read or a host write
leaves. A soft reset is a write. -/
inductive StepEffect (s : State) : State → Prop
  | engine {t : State} (h : (advance s).engineTurn = .next t) : StepEffect s t
  | reset (h : NextIsReset s) : StepEffect s (advance s).resetEvent
  | read (off : Nat) (size : Size) : StepEffect s ((advance s).hostRead off size)
  | write (off : Nat) (data : BusData) {t : State}
      (hev : ∃ rest, s.events = .access (.write (s.params.base + off) data) :: rest)
      (h : WriteEffect (advance s) off data t) : StepEffect s t

theorem advance_of_cons {s : State} {e : Event} {rest : List Event} (h : s.events = e :: rest) :
    { s with events := rest } = advance s := by
  rw [advance, h, List.tail_cons]

theorem step_effect {s t : State} (h : step s = .next t) : StepEffect s t := by
  obtain ⟨-, u, rfl, ht⟩ | ⟨u, a, rest, hev, rfl, ht⟩ | ⟨u, rest, hev, rfl, rfl⟩ := step_cases s t h
  · exact .engine ht
  · rw [advance_of_cons hev] at ht
    obtain ⟨addr, size, off, -, -, rfl⟩ | ⟨addr, data, off, rfl, hoff, rfl⟩ := hostAccess_cases _ t a ht
    · exact .read off size
    · obtain ⟨rfl, -⟩ := busOffset_eq_some _ _ _ _ hoff
      exact .write off data ⟨rest, hev⟩ (hostWrite_effect _ off data)
  · rw [advance_of_cons hev]
    exact .reset (.inl ⟨rest, hev⟩)

/-- A scheduled write that is a soft reset makes the step a reset. -/
theorem nextIsReset_of_srst {s : State} {off : Nat} {data : BusData} {v : Word}
    (hev : ∃ rest, s.events = .access (.write (s.params.base + off) data) :: rest) (hoff : off = 0x008)
    (hdata : data = .word v) (hv : v.getLsbD 31 = true) : NextIsReset s := by
  subst hoff hdata
  exact .inr ⟨v, hv, hev⟩

/-! ### The parameters and the randomness input -/

/-- `t` has the parameters and the randomness input of `s`, and no earlier position in it. -/
def SameBuild (s t : State) : Prop := t.params = s.params ∧ t.rngGiven = s.rngGiven ∧ s.rngPos ≤ t.rngPos

theorem resetEvent_sameBuild (s : State) : SameBuild s s.resetEvent := ⟨rfl, rfl, Nat.le_add_right _ _⟩

theorem complete_sameBuild (s : State) (err : Option CmdError) : SameBuild s (s.complete err) := ⟨rfl, rfl, le_rfl⟩

theorem exec_sameBuild {i : Instr} {s t : State} (h : exec i s = .next t) : SameBuild s t := by
  obtain ⟨hparams, -, -, -, -, hgiven, -⟩ := exec_sameControl h
  refine ⟨hparams, hgiven, ?_⟩
  by_cases hi : i = .primetest
  · subst hi
    obtain rfl := Host.Outcome.next.inj h
    exact Nat.le_add_right _ _
  · exact (exec_sameDraws h hi).1.ge

theorem engineTurn_sameBuild {s t : State} (h : s.engineTurn = .next t) : SameBuild s t := by
  obtain ⟨-, rfl⟩ | ⟨-, i, -, hx⟩ | ⟨-, r, -, rfl⟩ := engineTurn_cases s t h
  · exact ⟨rfl, rfl, le_rfl⟩
  · exact exec_sameBuild hx
  · exact complete_sameBuild s _

theorem writeEffect_sameBuild {s t : State} {off : Nat} {data : BusData} (h : WriteEffect s off data t) :
    SameBuild s t := by
  cases h with
  | softReset v _ _ _ => exact resetEvent_sameBuild s
  | window x v _ _ _ _ => simp [SameBuild]
  | _ => exact ⟨rfl, rfl, le_rfl⟩

theorem step_sameBuild {s t : State} (h : step s = .next t) : SameBuild s t := by
  cases step_effect h with
  | engine ht => exact (engineTurn_sameBuild ht :)
  | reset _ => exact resetEvent_sameBuild (advance s)
  | read off size => exact ⟨rfl, rfl, le_rfl⟩
  | write off data _ ht => exact (writeEffect_sameBuild ht :)

/-- Settles O56, by the kinds of a step. -/
theorem stepKeepsParams : Obligations.StepKeepsParams := by
  unfold Obligations.StepKeepsParams
  exact fun s t => step_sameBuild

/-! ### ERRS -/

theorem engineTurn_keeps_errs {s t : State} (h : s.engineTurn = .next t) (hs : s.status.errs = true) :
    t.status.errs = true := by
  obtain ⟨-, rfl⟩ | ⟨-, i, -, hx⟩ | ⟨-, r, -, rfl⟩ := engineTurn_cases s t h
  · exact hs
  · obtain ⟨-, herrs, -, -⟩ := exec_ended hx
    rw [herrs, hs, Bool.true_or]
  · simp [hs]

theorem errs_clearedBy {f : Status} (v : Word) (hf : f.errs = true) (hv : v.getLsbD 2 = false) :
    (f.clearedBy v).errs = true := by
  rw [Status.clearedBy, hf, hv]
  rfl

/-- Settles O57: of all a step can do, only the reset event and a STATUS write clear ERRS, the latter by bit 2. -/
theorem errsIsSticky : Obligations.ErrsIsSticky := by
  unfold Obligations.ErrsIsSticky
  intro s t h hs
  cases step_effect h with
  | engine ht => exact .inl (engineTurn_keeps_errs ht hs)
  | reset hreset => exact .inr (.inl hreset)
  | read off size => exact .inl hs
  | write off data hev ht =>
    cases ht with
    | softReset v hoff hdata hv => exact .inr (.inl (nextIsReset_of_srst hev hoff hdata hv))
    | clear v hoff hdata =>
      subst hoff hdata
      cases hv : v.getLsbD 2 with
      | true => exact .inr (.inr ⟨v, hv, hev⟩)
      | false => exact .inl (errs_clearedBy _ hs hv)
    | window x v _ _ _ _ => exact .inl (by simpa using hs)
    | _ => exact .inl hs

/-! ### CMD -/

theorem engineTurn_cmd {s t : State} (h : s.engineTurn = .next t) : t.cmd = s.cmd := by
  obtain ⟨-, rfl⟩ | ⟨-, i, -, hx⟩ | ⟨-, r, -, rfl⟩ := engineTurn_cases s t h
  · rfl
  · obtain ⟨-, -, hcmd, -⟩ := exec_sameControl hx
    exact hcmd
  · rfl

/-- Settles O58: of all a step can do, only an issue and the reset event write CMD. -/
theorem cmdHoldsAcceptedWord : Obligations.CmdHoldsAcceptedWord := by
  unfold Obligations.CmdHoldsAcceptedWord
  intro s t h
  cases step_effect h with
  | engine ht => exact .inl (engineTurn_cmd ht :)
  | reset hreset => exact .inr (.inr ⟨hreset, rfl⟩)
  | read off size => exact .inl rfl
  | write off data hev ht =>
    cases ht with
    | softReset v hoff hdata hv => exact .inr (.inr ⟨nextIsReset_of_srst hev hoff hdata hv, rfl⟩)
    | issue w hoff hdata hb =>
      subst hoff hdata
      exact .inr (.inl ⟨hb, hev, rfl⟩)
    | window x v _ _ _ _ => exact .inl (by simp)
    | _ => exact .inl rfl

end Sys2Proof.Proofs
end

section
/-! SUPPORT. The invariant: it holds right after reset, and every step keeps it. -/

namespace Sys2Proof.Proofs

open Sys2Proof.Machine Sys2Proof.Claims

/-! ### Every big register a value of its type (R20, R27) -/

/-- The part of `State.Inv` that is about the big registers. -/
structure RegistersFit (s : State) : Prop where
  general : ∀ x, s.g x < s.bound
  sx : s.regSX < s.params.wideBound
  sy : s.regSY < s.params.wideBound

section Fit

variable {s : State} (h : RegistersFit s)

include h

theorem RegistersFit.setG (x : GReg) {v : Nat} (hv : v < s.bound) : RegistersFit (s.setG x v) where
  general y := by
    rw [State.setG_g, State.setG_bound]
    split
    · exact hv
    · exact h.general y
  sx := by simpa using h.sx
  sy := by simpa using h.sy

/-- Registers that are all as they were still fit. -/
theorem RegistersFit.of_sameBig {t : State} (hp : t.params = s.params) (hbig : SameBig s t []) : RegistersFit t where
  general x := by
    rw [State.bound, hp]
    exact (hbig (.gen x) (by simp)).trans_lt (h.general x)
  sx := by
    rw [hp]
    exact (hbig .sx (by simp)).trans_lt h.sx
  sy := by
    rw [hp]
    exact (hbig .sy (by simp)).trans_lt h.sy

theorem RegistersFit.writeResult {v : Nat} (hv : v < s.bound) : RegistersFit (s.writeResult v) :=
  (h.setG .R hv).of_sameBig rfl fun x _ => by simp

theorem RegistersFit.setSigned (x y : Int) : RegistersFit (s.setSigned x y) :=
  ⟨fun q => by simpa using h.general q, tc_lt _ _, tc_lt _ _⟩

theorem RegistersFit.complete (err : Option CmdError) : RegistersFit (s.complete err) :=
  h.of_sameBig rfl fun x _ => big_complete s err x

end Fit

/-- An end of a command that leaves values of their types: an error, or an effect whose registers fit. -/
inductive EndFits : Except CmdError State → Prop
  | error (e : CmdError) : EndFits (.error e)
  | ok {u : State} (h : RegistersFit u) : EndFits (.ok u)

theorem EndFits.check {c : Prop} [Decidable c] {e : CmdError} {r : Except CmdError State} (h : ¬ c → EndFits r) :
    EndFits (if c then .error e else r) := by
  split
  · exact .error e
  · next hc => exact h hc

theorem gcd_lt_of_lt {a b m : Nat} (ha : a < m) (hb : b < m) : Nat.gcd a b < m := by
  obtain rfl | hpos := Nat.eq_zero_or_pos a
  · rwa [Nat.gcd_zero_left]
  · exact (Nat.gcd_le_left b hpos).trans_lt ha

/-- Every command's results are values of their types: its own checks bound them, or they are remainders, divisors or
differences of what fits. -/
theorem exec_endFits {s : State} (hl : s.params.Legal) (h : RegistersFit s) (i : Instr) :
    ∃ r, exec i s = .next (s.conclude r) ∧ EndFits r := by
  have hA : s.regA < s.bound := h.general .A
  have hB : s.regB < s.bound := h.general .B
  have hN : s.regN < s.bound := h.general .N
  have below_N {v : Nat} (hv : s.regN ≠ 0 → v < s.regN) (h0 : ¬ s.regN = 0) : EndFits (.ok (s.writeResult v)) :=
    .ok (h.writeResult ((hv h0).trans hN))
  cases i with
  | nop => exact ⟨_, rfl, .ok h⟩
  | mov rd rs => exact ⟨_, rfl, .ok (h.setG rd (h.general rs))⟩
  | ldi rd imm => exact ⟨_, rfl, .check fun hc => .ok (h.setG rd (Nat.not_le.1 hc))⟩
  | add => exact ⟨_, rfl, .check fun hc => .ok (h.writeResult (Nat.not_le.1 hc))⟩
  | sub => exact ⟨_, rfl, .check fun _ => .ok (h.writeResult ((Nat.sub_le _ _).trans_lt hA))⟩
  | mul => exact ⟨_, rfl, .check fun hc => .ok (h.writeResult (Nat.not_le.1 hc))⟩
  | div =>
    have hq := h.writeResult ((Nat.div_le_self s.regA s.regB).trans_lt hA)
    exact ⟨_, rfl, .check fun _ => .ok (hq.setG .S ((Nat.mod_le s.regA s.regB).trans_lt hA))⟩
  | mod => exact ⟨_, rfl, .check fun _ => .ok (h.writeResult ((Nat.mod_le _ _).trans_lt hA))⟩
  | cmp => exact ⟨_, rfl, .ok (h.of_sameBig rfl fun x _ => big_flagCompare s _ _ x)⟩
  | gcd => exact ⟨_, exec_gcd s, .ok (h.writeResult (gcd_lt_of_lt hA hB))⟩
  | mulmod => exact ⟨_, rfl, .check (below_N fun h0 => Nat.mod_lt _ (Nat.pos_of_ne_zero h0))⟩
  | montmul =>
    exact ⟨_, rfl, .check fun h0 => .check fun _ => .check fun _ =>
      below_N (fun h0 => montMul_lt _ _ _ _ (Nat.pos_of_ne_zero h0)) h0⟩
  | modexp => exact ⟨_, rfl, .check (below_N fun h0 => powMod_lt _ _ _ _ (Nat.pos_of_ne_zero h0))⟩
  | bezout =>
    exact ⟨.ok _, exec_bezout s, .ok ((h.setSigned _ _).writeResult (gcd_lt_of_lt hA hB))⟩
  | modinv =>
    exact ⟨_, rfl, .check fun h0 => .check fun _ =>
      .ok ((h.setSigned _ _).writeResult ((modInverse_lt _ _ (Nat.pos_of_ne_zero h0)).trans hN))⟩
  | primetest =>
    have hdraws : RegistersFit (s.takeDraws s.primeTest.2) := h.of_sameBig rfl fun x _ => big_takeDraws s _ x
    have hone : (if s.primeTest.1 then 1 else 0) < s.bound := by
      have h1 : 1 < s.bound := Nat.one_lt_two_pow (by have := hl.width_ge; omega)
      split <;> omega
    exact ⟨_, rfl, .ok ((hdraws.writeResult hone).of_sameBig rfl fun x _ => big_flagPrime _ _ x)⟩

theorem exec_registersFit {i : Instr} {s t : State} (hl : s.params.Legal) (h : RegistersFit s)
    (ht : exec i s = .next t) : RegistersFit t := by
  obtain ⟨r, hr, hend⟩ := exec_endFits hl h i
  obtain rfl := Host.Outcome.next.inj (hr.symm.trans ht)
  cases hend with
  | error e => exact h.complete _
  | ok hu => exact hu.complete _

/-! ### The comparison flags (R34) -/

/-- At most one of EQ, LT and GT is set. -/
def OneComparison (f : Status) : Prop := (f.eq && f.lt) = false ∧ (f.eq && f.gt) = false ∧ (f.lt && f.gt) = false

theorem oneComparison_of_sameFlags {s t : State} (h : SameFlags s t) (hs : OneComparison s.status) :
    OneComparison t.status := by
  obtain ⟨-, heq, hlt, hgt, -⟩ := h
  rwa [OneComparison, heq, hlt, hgt]

theorem CommandEffect.oneComparison {s u : State} {i : Instr} (h : CommandEffect s i u) (hs : OneComparison s.status) :
    OneComparison u.status := by
  have hcmp := h.comparison
  split at hcmp
  · obtain ⟨heq, hlt, hgt⟩ := hcmp
    simp only [OneComparison, ← Bool.not_eq_true, Bool.and_eq_true, heq, hlt, hgt]
    omega
  · obtain ⟨heq, hlt, hgt⟩ := hcmp
    rwa [OneComparison, heq, hlt, hgt]

theorem exec_oneComparison {i : Instr} {s t : State} (h : exec i s = .next t) (hs : OneComparison s.status) :
    OneComparison t.status := by
  obtain ⟨-, hsame⟩ | ⟨-, u, hu, rfl⟩ := exec_flags h
  · exact oneComparison_of_sameFlags hsame hs
  · exact hu.oneComparison hs

/-! ### The invariant by its parts -/

theorem inv_iff (s : State) : s.Inv ↔ s.params.Legal ∧ RegistersFit s ∧
    (s.status.busy = true → s.status.done = false) ∧ OneComparison s.status :=
  ⟨fun h => ⟨h.legal, ⟨h.general_lt, h.sx_lt, h.sy_lt⟩, h.busy_not_done, h.eq_lt, h.eq_gt, h.lt_gt⟩,
    fun ⟨hl, hfit, hdone, heqlt, heqgt, hltgt⟩ =>
      ⟨hl, hfit.general, hfit.sx, hfit.sy, hdone, heqlt, heqgt, hltgt⟩⟩

/-- A state with the same registers, flags, BUSY and DONE is of the invariant too. -/
theorem inv_of_same {s t : State} (h : s.Inv) (hp : t.params = s.params) (hbig : SameBig s t [])
    (hflags : SameFlags s t) (hdone : t.status.busy = true → t.status.done = false) : t.Inv := by
  obtain ⟨hl, hfit, -, hone⟩ := (inv_iff s).1 h
  exact (inv_iff t).2 ⟨hp ▸ hl, hfit.of_sameBig hp hbig, hdone, oneComparison_of_sameFlags hflags hone⟩

theorem complete_inv {s : State} (h : s.Inv) (err : Option CmdError) : (s.complete err).Inv :=
  inv_of_same h rfl (fun x _ => big_complete s err x) (sameFlags_complete err) (by simp)

theorem exec_inv {i : Instr} {s t : State} (h : s.Inv) (ht : exec i s = .next t) : t.Inv := by
  obtain ⟨hl, hfit, -, hone⟩ := (inv_iff s).1 h
  obtain ⟨hparams, -⟩ := exec_sameControl ht
  obtain ⟨-, -, hbusy, -⟩ := exec_ended ht
  exact (inv_iff t).2 ⟨hparams ▸ hl, exec_registersFit hl hfit ht, by simp [hbusy], exec_oneComparison ht hone⟩

theorem engineTurn_inv {s t : State} (h : s.Inv) (ht : s.engineTurn = .next t) : t.Inv := by
  obtain ⟨-, rfl⟩ | ⟨-, i, -, hx⟩ | ⟨-, r, -, rfl⟩ := engineTurn_cases s t ht
  · exact h
  · exact exec_inv h hx
  · exact complete_inv h _

/-- What a reset puts into the big registers fits, whatever the free values are. -/
theorem resetEvent_registersFit (s : State) : RegistersFit s.resetEvent where
  general x := by cases x <;> exact Nat.mod_lt _ (Nat.two_pow_pos _)
  sx := Nat.mod_lt _ (Nat.two_pow_pos _)
  sy := Nat.mod_lt _ (Nat.two_pow_pos _)

theorem resetEvent_inv {s : State} (h : s.params.Legal) : s.resetEvent.Inv :=
  (inv_iff _).2 ⟨h, resetEvent_registersFit s, fun _ => rfl, rfl, rfl, rfl⟩

theorem setG_inv {s : State} (h : s.Inv) (x : GReg) {v : Nat} (hv : v < s.bound) : (s.setG x v).Inv := by
  obtain ⟨hl, hfit, hdone, hone⟩ := (inv_iff s).1 h
  exact (inv_iff _).2 ⟨by simpa using hl, hfit.setG x hv, by simpa using hdone, by simpa using hone⟩

theorem writeEffect_inv {s t : State} {off : Nat} {data : BusData} (h : s.Inv) (ht : WriteEffect s off data t) :
    t.Inv := by
  have same {u : State} (hp : u.params = s.params) (hbig : SameBig s u []) (hflags : SameFlags s u)
      (hdone : u.status.busy = true → u.status.done = false) : u.Inv := inv_of_same h hp hbig hflags hdone
  cases ht with
  | ignored => exact h
  | softReset v _ _ _ => exact resetEvent_inv h.legal
  | window x v _ _ _ hv => exact setG_inv h x (hv h.legal (h.general_lt x))
  | clear v _ _ =>
    refine same rfl (fun x _ => by cases x <;> rfl) ⟨rfl, rfl, rfl, rfl, rfl⟩ fun hb => ?_
    simp [Status.clearedBy, h.busy_not_done hb]
  | issue w _ _ _ => exact same rfl (fun x _ => big_issue s w x) ⟨rfl, rfl, rfl, rfl, rfl⟩ fun _ => rfl
  | _ => exact same rfl (fun x _ => by cases x <;> rfl) ⟨rfl, rfl, rfl, rfl, rfl⟩ h.busy_not_done

theorem advance_inv {s : State} (h : s.Inv) : (advance s).Inv :=
  inv_of_same h rfl (fun x _ => advance_big s x) ⟨rfl, rfl, rfl, rfl, rfl⟩ h.busy_not_done

theorem hostRead_inv {s : State} (h : s.Inv) (off : Nat) (size : Size) : (s.hostRead off size).Inv :=
  inv_of_same h rfl (fun x _ => by cases x <;> rfl) ⟨rfl, rfl, rfl, rfl, rfl⟩ h.busy_not_done

/-- Settles O55: each kind of step keeps the invariant of the state it acts on. -/
theorem stepKeepsInv : Obligations.StepKeepsInv := by
  unfold Obligations.StepKeepsInv
  intro s t h ht
  have hu := advance_inv h
  cases step_effect ht with
  | engine ht => exact engineTurn_inv hu ht
  | reset _ => exact resetEvent_inv hu.legal
  | read off size => exact hostRead_inv hu off size
  | write off data _ ht => exact writeEffect_inv hu ht

/-! ### The state after reset -/

theorem prime_of_mem_defaultPrimes : ∀ q ∈ defaultPrimes, q.Prime := by
  simp only [defaultPrimes, List.forall_mem_append, List.forall_mem_cons]
  norm_num

theorem default_legal : Params.default.Legal where
  width_dvd := by decide
  width_ge := by decide
  width_le := by decide
  primes_prime := prime_of_mem_defaultPrimes
  primes_increasing := by decide
  two_mem := by decide
  three_mem := by decide
  primes_lt := by decide
  primes_length := by decide
  base_dvd := by decide

theorem resetWith_inv {p : Params} (h : p.Legal) (given : List Nat) : (State.resetWith p given).Inv := by
  refine (inv_iff _).2 ⟨h, ⟨fun x => ?_, ?_, ?_⟩, fun _ => rfl, rfl, rfl, rfl⟩
  · cases x <;> exact Nat.mod_lt _ (Nat.two_pow_pos _)
  · exact Nat.mod_lt _ (Nat.two_pow_pos _)
  · exact Nat.mod_lt _ (Nat.two_pow_pos _)

/-- Settles O54: the default parameters are legal, and the rest holds after reset for any legal parameters. -/
theorem invAtReset : Obligations.InvAtReset := by
  unfold Obligations.InvAtReset
  exact resetWith_inv default_legal []

end Sys2Proof.Proofs
end

section
/-! SUPPORT. The busy window: what host accesses leave of a command in flight, and what they read (R24, R270, R271). -/

namespace Sys2Proof.Proofs

open Sys2Proof.Machine Sys2Proof.Claims

/-! ### Accesses while a command is in flight -/

/-- `t` has in flight what `s` has: BUSY is 1, and the operands, the word, the draws, the flags and the error are those
of `s`. -/
structure SameFlight (s t : State) : Prop where
  busy : t.status.busy = true
  params : t.params = s.params
  big : SameBig s t []
  cmd : t.cmd = s.cmd
  rounds : t.rounds = s.rounds
  draws : SameDraws s t
  flags : SameFlags s t
  err : t.status.err = s.status.err

theorem SameFlight.refl {s : State} (hb : s.status.busy = true) : SameFlight s s :=
  ⟨hb, rfl, fun _ _ => rfl, rfl, rfl, ⟨rfl, rfl⟩, ⟨rfl, rfl, rfl, rfl, rfl⟩, rfl⟩

theorem SameFlight.trans {s t u : State} (h : SameFlight s t) (h' : SameFlight t u) : SameFlight s u where
  busy := h'.busy
  params := h'.params.trans h.params
  big x hx := (h'.big x hx).trans (h.big x hx)
  cmd := h'.cmd.trans h.cmd
  rounds := h'.rounds.trans h.rounds
  draws := by
    obtain ⟨hpos, hcnt⟩ := h.draws
    obtain ⟨hpos', hcnt'⟩ := h'.draws
    exact ⟨hpos'.trans hpos, hcnt'.trans hcnt⟩
  flags := by
    obtain ⟨hz, heq, hlt, hgt, hprime⟩ := h.flags
    obtain ⟨hz', heq', hlt', hgt', hprime'⟩ := h'.flags
    exact ⟨hz'.trans hz, heq'.trans heq, hlt'.trans hlt, hgt'.trans hgt, hprime'.trans hprime⟩
  err := h'.err.trans h.err

theorem hostRead_sameFlight {s : State} (hb : s.status.busy = true) (off : Nat) (size : Size) :
    SameFlight s (s.hostRead off size) :=
  ⟨hb, rfl, fun x _ => by cases x <;> rfl, rfl, rfl, ⟨rfl, rfl⟩, ⟨rfl, rfl, rfl, rfl, rfl⟩, rfl⟩

/-- While BUSY is 1 a write is ignored, recorded, or goes to CTRL or the sticky bits of STATUS. -/
theorem writeEffect_sameFlight {s t : State} {off : Nat} {data : BusData} (hb : s.status.busy = true)
    (hsoft : ∀ v : Word, off = 0x008 → data = .word v → v.getLsbD 31 = false) (h : WriteEffect s off data t) :
    SameFlight s t ∧ t.events = s.events := by
  cases h with
  | softReset v hoff hdata hv => exact absurd hv (Bool.eq_false_iff.1 (hsoft v hoff hdata))
  | issue w _ _ hidle | rounds w _ _ hidle | window x v _ _ hidle _ => exact absurd hb (Bool.eq_false_iff.1 hidle)
  | ignored => exact ⟨.refl hb, rfl⟩
  | _ => exact ⟨⟨hb, rfl, fun x _ => by cases x <;> rfl, rfl, rfl, ⟨rfl, rfl⟩, ⟨rfl, rfl, rfl, rfl, rfl⟩, rfl⟩, rfl⟩

/-- Of a harmless event that is a write, the data written to CTRL has no SRST. -/
theorem srst_of_harmless {p : Params} {off : Nat} {data : BusData}
    (h : Harmless p (.access (.write (p.base + off) data))) (v : Word) (hoff : off = 0x008) (hdata : data = .word v) :
    v.getLsbD 31 = false := by
  subst hoff hdata
  exact Bool.eq_false_iff.2 fun hv => h ⟨rfl, hv⟩

/-- One harmless event leaves the flight as it is. -/
theorem step_sameFlight {s t : State} {e : Event} {rest : List Event} (hb : s.status.busy = true)
    (he : Harmless s.params e) (hev : s.events = e :: rest) (h : step s = .next t) :
    SameFlight s t ∧ t.events = rest := by
  cases e with
  | engine | reset => exact he.elim
  | access a =>
    rw [step_of_access hev] at h
    have hu : SameFlight s (afterAccesses s rest []) :=
      ⟨hb, rfl, fun x _ => afterAccesses_big s rest [] x, rfl, rfl, ⟨rfl, rfl⟩, ⟨rfl, rfl, rfl, rfl, rfl⟩, rfl⟩
    obtain ⟨addr, size, off, -, -, rfl⟩ | ⟨addr, data, off, rfl, hoff, rfl⟩ := hostAccess_cases _ t a h
    · exact ⟨hu.trans (hostRead_sameFlight (s := afterAccesses s rest []) hb off size), rfl⟩
    · obtain ⟨rfl, -⟩ := busOffset_eq_some _ _ _ _ hoff
      obtain ⟨hflight, hevents⟩ := writeEffect_sameFlight (s := afterAccesses s rest []) hb (srst_of_harmless he)
        (hostWrite_effect _ off data)
      exact ⟨hu.trans hflight, hevents⟩

/-- So does any number of them: induction on the schedule, the step above for each event. -/
theorem run_sameFlight (rest : List Event) : ∀ (es : List Event) (s t : State), s.status.busy = true →
    (∀ e ∈ es, Harmless s.params e) → s.events = es ++ rest → Sys2Proof.core.run es.length s = .next t →
    SameFlight s t ∧ t.events = rest
  | [], s, t, hb, _, hev, h => by
    obtain rfl : s = t := Host.Outcome.next.inj h
    exact ⟨.refl hb, hev⟩
  | e :: es, s, t, hb, hes, hev, h => by
    obtain ⟨he, hes⟩ := List.forall_mem_cons.1 hes
    obtain ⟨u, hu, hrun⟩ := run_succ_eq_next es.length s t h
    obtain ⟨hflight, hevents⟩ := step_sameFlight hb he hev hu
    obtain ⟨hflight', hevents'⟩ := run_sameFlight rest es u t hflight.busy (hflight.params ▸ hes) hevents hrun
    exact ⟨hflight.trans hflight', hevents'⟩

/-- Settles O51, by `run_sameFlight`. -/
theorem operandsStableWhileBusy : Obligations.OperandsStableWhileBusy := by
  unfold Obligations.OperandsStableWhileBusy
  intro es rest s t hb hes hev h
  obtain ⟨hflight, hevents⟩ := run_sameFlight rest es s t hb hes hev h
  exact ⟨hflight.busy, hflight.big, hflight.cmd, hflight.rounds, hflight.draws, hflight.flags, hflight.err, hevents⟩

/-! ### The draws of the command in flight (R260, R271) -/

theorem drawsInFlight_idle {s : State} (hb : s.status.busy = false) : s.drawsInFlight = 0 :=
  if_neg (Bool.eq_false_iff.1 hb)

theorem drawsInFlight_primetest {s : State} (hb : s.status.busy = true) (hd : decode s.cmd = .ok .primetest) :
    s.drawsInFlight = s.primeTest.2 := by
  rw [State.drawsInFlight, if_pos hb, hd]

theorem drawsInFlight_of_ne_primetest {s : State} (hd : decode s.cmd ≠ .ok .primetest) : s.drawsInFlight = 0 := by
  unfold State.drawsInFlight
  split
  · split
    · next h => exact absurd h hd
    · rfl
  · rfl

theorem drawsSoFar_le (s : State) : s.drawsSoFar ≤ s.drawsInFlight := by
  unfold State.drawsSoFar
  split
  · exact Nat.zero_le _
  · exact Nat.le_of_lt_succ (Nat.mod_lt _ (Nat.succ_pos _))

theorem drawsSoFar_idle {s : State} (hb : s.status.busy = false) : s.drawsSoFar = 0 :=
  if_pos (drawsInFlight_idle hb)

/-- The engine's turn makes the draws of the command in flight, no more and no fewer. -/
theorem engineTurn_drawsInFlight {s t : State} (hb : s.status.busy = true) (h : s.engineTurn = .next t) :
    Draws s t s.drawsInFlight := by
  by_cases hd : decode s.cmd = .ok .primetest
  · rw [State.engineTurn, if_pos hb, hd] at h
    obtain rfl := Host.Outcome.next.inj h
    rw [drawsInFlight_primetest hb hd]
    exact ⟨rfl, rfl⟩
  · obtain ⟨n, hdraws, hn⟩ := engineTurn_draws h
    obtain rfl : n = 0 := by
      by_contra hne
      exact hd (hn hne).2.1
    rwa [drawsInFlight_of_ne_primetest hd]

/-! ### The engine's turn (R96) -/

theorem exists_exec (i : Instr) (s : State) : ∃ t, exec i s = .next t := by
  obtain ⟨r, hr, -⟩ := exec_eq_conclude s i
  exact ⟨_, hr⟩

theorem engineTurn_of_decode {s : State} {i : Instr} (hb : s.status.busy = true) (hd : decode s.cmd = .ok i) :
    s.engineTurn = exec i s := by
  rw [State.engineTurn, if_pos hb, hd]

theorem engineTurn_idle {s : State} (hb : s.status.busy = false) : s.engineTurn = .next s :=
  if_neg (Bool.eq_false_iff.1 hb)

theorem exists_engineTurn (s : State) : ∃ t, s.engineTurn = .next t := by
  cases hb : s.status.busy with
  | false => exact ⟨s, engineTurn_idle hb⟩
  | true =>
    by_cases hd : ∃ i, decode s.cmd = .ok i
    · obtain ⟨i, hd⟩ := hd
      obtain ⟨t, ht⟩ := exists_exec i s
      exact ⟨t, (engineTurn_of_decode hb hd).trans ht⟩
    · exact ⟨_, engineTurn_of_illegal hb hd⟩

/-- Settles O8: by whether the word in flight is legal; a command's error leaves its record only, by
`errorsArePrecise`. -/
theorem engineStepCompletes : Obligations.EngineStepCompletes := by
  unfold Obligations.EngineStepCompletes
  refine ⟨fun s hb => ?_, fun s => engineTurn_idle, fun i s => ?_⟩
  · by_cases hlegal : ∃ i, decode s.cmd = .ok i
    · have ⟨i, hd⟩ := hlegal
      obtain ⟨t, ht⟩ := exists_exec i s
      refine ⟨t, t.status.err, (engineTurn_of_decode hb hd).trans ht, exec_ended ht,
        fun e => errorsArePrecise i s t e ht, fun hill => absurd hlegal hill, fun j hj => ?_⟩
      obtain rfl : i = j := Except.ok.inj (hd.symm.trans hj)
      exact ht
    · have hended : Ended s (s.complete (some .illegalCmd)) (some .illegalCmd) := by simp [Ended]
      refine ⟨_, some .illegalCmd, engineTurn_of_illegal hb hlegal, hended, fun e he => ?_, fun _ => rfl,
        fun i hi => absurd ⟨i, hi⟩ hlegal⟩
      obtain rfl := Option.some.inj he
      exact errsFrom_complete s .illegalCmd
  · obtain ⟨t, ht⟩ := exists_exec i s
    exact ⟨t, _, ht, exec_ended ht⟩

/-! ### Reads while a command is in flight (R271) -/

/-- A busy read from 0x400 on is a function of its offset, its size and the count of free values. -/
theorem readValue_busy_congr {s s' : State} {off : Nat} (size : Size) (hb : s.status.busy = true)
    (hb' : s'.status.busy = true) (hctr : s'.freeCtr = s.freeCtr) (hoff : Config.windowSize ≤ off) :
    s'.readValue off size = s.readValue off size := by
  have hbyte (off i : Nat) : s'.byteSeen off i = s.byteSeen off i := by
    rw [byteSeen_busy s off i hb, byteSeen_busy s' off i hb', hctr]
  cases size with
  | byte => rw [readValue_byte s off hoff, readValue_byte s' off hoff, hbyte]
  | word =>
    by_cases h4 : off % 4 = 0
    · rw [readValue_word s off hoff h4, readValue_word s' off hoff h4]
      simp only [hbyte]
    · rw [readValue_word_unaligned s off h4, readValue_word_unaligned s' off h4]

/-- Settles O49: window reads by `readValue_busy_congr`; RNGCNT shows `drawsSoFar`, which `drawsSoFar_le` bounds by the
draws of the completion; the other control registers by `readValue_creg`. -/
theorem busyReads : Obligations.BusyReads := by
  unfold Obligations.BusyReads
  refine ⟨fun s s' off size => readValue_busy_congr size, fun s off size hb => if_pos hb, fun s hb => ?_, fun s => ?_⟩
  · obtain ⟨t, ht⟩ := exists_engineTurn s
    obtain ⟨hpos, hcnt⟩ := engineTurn_drawsInFlight hb ht
    exact ⟨s.drawsInFlight, t, s.drawsSoFar, ht, hpos, hcnt, drawsSoFar_le s, readValue_creg s .rngcnt⟩
  · exact ⟨readValue_creg s .id, readValue_creg s .config, readValue_creg s .status, readValue_creg s .cmd,
      readValue_creg s .rounds, readValue_creg s .ctrl⟩

end Sys2Proof.Proofs
end

section
/-! SUPPORT. Steps by their schedule (log entry 5): the engine's turn, a placed word, a host access, and the program
line of R104. -/

namespace Sys2Proof.Proofs

open Sys2Proof.Machine Sys2Proof.Claims

/-! ### The engine's turn and a placed word -/

theorem step_of_engine {s : State} {rest : List Event} (hev : s.events = .engine :: rest) :
    step s = ({ s with events := rest } : State).engineTurn :=
  step_of_cons s _ rest hev

/-- Settles O6, by `engineTurn_of_decode` on the state that the turn acts on. -/
theorem stepRunsTheDecodedCommand : Obligations.StepRunsTheDecodedCommand := by
  unfold Obligations.StepRunsTheDecodedCommand
  refine fun s i hb hd => ⟨fun hev => ?_, fun rest hev => ?_⟩
  · rw [step_of_nil s hev, engineTurn_of_decode hb hd]
  · rw [step_of_engine hev]
    exact engineTurn_of_decode hb hd

theorem withFetchWord_of_lt (s : State) {w : Nat} (hw : w < 2 ^ 32) :
    s.withFetchWord 32 w = { s.issue (BitVec.ofNat 32 w) with events := .engine :: s.events } := by
  rw [State.withFetchWord, tableWord, if_pos ⟨le_rfl, hw⟩]

/-- Settles O7: the placed word is in flight and the engine's turn first. -/
theorem placedWordRunsNext : Obligations.PlacedWordRunsNext := by
  unfold Obligations.PlacedWordRunsNext
  intro s w i hw hd
  have hissued : (s.issue (BitVec.ofNat 32 w)).engineTurn = exec i (s.issue (BitVec.ofNat 32 w)) :=
    engineTurn_of_decode (State.issue_status_busy s _) hd
  rw [withFetchWord_of_lt s hw, step_of_engine rfl]
  exact hissued

/-! ### A host access -/

/-- Settles O9: `busOffset` gives the offset of an access inside the space and nothing for any other. -/
theorem hostAccessStep : Obligations.HostAccessStep := by
  unfold Obligations.HostAccessStep
  refine fun s rest => ⟨fun off size hoff hev => ?_, fun off data hoff hev => ?_, fun addr size hout hev => ?_,
    fun addr data hout hev => ?_⟩
  · exact (step_of_access hev).trans (hostAccess_read (busOffset_inside s.params off size hoff))
  · exact (step_of_access hev).trans (hostAccess_write (busOffset_inside s.params off data.size hoff))
  · rw [step_of_access hev, State.hostAccess, afterAccesses_params, busOffset_outside _ addr size hout]
  · rw [step_of_access hev, State.hostAccess, afterAccesses_params, busOffset_outside _ addr data.size hout]

/-! ### The host's side of the state -/

/-- `s` with another schedule, other data returned to the host and another count of free values: what no command reads
or writes. -/
def withHostSide (s : State) (events : List Event) (reads : List BusData) (ctr : Nat) : State :=
  { s with events := events, reads := reads, freeCtr := ctr }

section HostSide

variable {s : State} {events : List Event} {reads : List BusData} {ctr : Nat}

@[simp] theorem withHostSide_params : (withHostSide s events reads ctr).params = s.params := rfl
@[simp] theorem withHostSide_status : (withHostSide s events reads ctr).status = s.status := rfl

theorem conclude_check_withHostSide {c : Prop} [Decidable c] {e : CmdError} {r r' : Except CmdError State}
    (h : (withHostSide s events reads ctr).conclude r' = withHostSide (s.conclude r) events reads ctr) :
    (withHostSide s events reads ctr).conclude (if c then .error e else r') =
      withHostSide (s.conclude (if c then .error e else r)) events reads ctr := by
  split
  · rfl
  · exact h

theorem setG_withHostSide (x : GReg) (v : Nat) :
    (withHostSide s events reads ctr).setG x v = withHostSide (s.setG x v) events reads ctr := by
  cases x <;> rfl

theorem g_withHostSide (x : GReg) : (withHostSide s events reads ctr).g x = s.g x := by
  cases x <;> rfl

theorem exec_withHostSide_cases (i : Instr) (s : State) (events : List Event) (reads : List BusData) (ctr : Nat) :
    ∃ u, exec i s = .next u ∧
      exec i (withHostSide s events reads ctr) = .next (withHostSide u events reads ctr) := by
  cases i with
  | nop | cmp | gcd | bezout => exact ⟨_, rfl, rfl⟩
  | add | sub | mul | div | mod | mulmod | modexp =>
    exact ⟨_, rfl, congrArg Host.Outcome.next (conclude_check_withHostSide rfl)⟩
  | montmul =>
    exact ⟨_, rfl, congrArg Host.Outcome.next
      (conclude_check_withHostSide (conclude_check_withHostSide (conclude_check_withHostSide rfl)))⟩
  | modinv =>
    exact ⟨_, rfl, congrArg Host.Outcome.next (conclude_check_withHostSide (conclude_check_withHostSide rfl))⟩
  | mov rd rs =>
    refine ⟨_, exec_mov s rd rs, ?_⟩
    rw [exec_mov, setG_withHostSide, g_withHostSide]
    rfl
  | ldi rd imm =>
    refine ⟨_, rfl, congrArg Host.Outcome.next (conclude_check_withHostSide ?_)⟩
    rw [conclude_ok, setG_withHostSide]
    rfl
  | primetest =>
    have htest : (withHostSide s events reads ctr).primeTest = s.primeTest := primeTest_congr rfl rfl rfl rfl rfl
    refine ⟨_, exec_primetest s, ?_⟩
    rw [exec_primetest, htest]
    rfl

/-- A command does the same whatever the host's side of the state is, and leaves it alone. -/
theorem exec_withHostSide {i : Instr} {u : State} (h : exec i s = .next u) (events : List Event)
    (reads : List BusData) (ctr : Nat) :
    exec i (withHostSide s events reads ctr) = .next (withHostSide u events reads ctr) := by
  obtain ⟨u', hu, hside⟩ := exec_withHostSide_cases i s events reads ctr
  obtain rfl := Host.Outcome.next.inj (hu.symm.trans h)
  exact hside

end HostSide

/-! ### A program line that is a command (R104) -/

section Line

variable {s : State} {rest : List Event}

/-- A poll: a scheduled read of STATUS gives its word to the host and changes nothing else of the block. -/
theorem step_poll (hev : s.events = rdcDirective s.params .status :: rest) :
    step s = .next (withHostSide s rest (.word s.status.word :: s.reads)
      (if s.status.busy then s.freeCtr + 1 else s.freeCtr)) :=
  (step_of_access hev).trans
    (hostAccess_read (s := afterAccesses s rest [])
      (busOffset_inside s.params CReg.status.offset .word (show 0x00C + 4 ≤ 0x2000 by decide)))

/-- Polls that find BUSY read the same word each time. -/
theorem run_polls (rest : List Event) : ∀ (polls : Nat) (s : State), s.status.busy = true →
    s.events = List.replicate polls (rdcDirective s.params .status) ++ rest →
    Sys2Proof.core.run polls s = .next (withHostSide s rest
      (List.replicate polls (.word s.status.word) ++ s.reads) (s.freeCtr + polls))
  | 0, s, _, hev => by
    have hev' : s.events = rest := hev
    subst hev'
    rfl
  | polls + 1, s, hb, hev => by
    have hstep := step_poll hev
    rw [if_pos hb] at hstep
    have hrest := run_polls rest polls (withHostSide s (List.replicate polls (rdcDirective s.params .status) ++ rest)
      (.word s.status.word :: s.reads) (s.freeCtr + 1)) hb rfl
    have hreads : List.replicate (polls + 1) (BusData.word s.status.word) ++ s.reads =
        List.replicate polls (.word s.status.word) ++ .word s.status.word :: s.reads := by
      simp [List.replicate_succ']
    rw [hreads, ← Nat.add_assoc, Nat.add_right_comm]
    exact (run_succ polls _ _ hstep).trans hrest

/-- The end of a WAIT: the engine's turn completes the command, and the poll after it reads the status it left. -/
theorem run_completion {i : Instr} {u : State} (hb : s.status.busy = true) (hd : decode s.cmd = .ok i)
    (hu : exec i s = .next u) (reads : List BusData) (ctr : Nat) :
    Sys2Proof.core.run 2 (withHostSide s (.engine :: rdcDirective s.params .status :: rest) reads ctr) =
      .next (withHostSide u rest (.word u.status.word :: reads) ctr) := by
  have hengine : step (withHostSide s (.engine :: rdcDirective s.params .status :: rest) reads ctr) =
      .next (withHostSide u (rdcDirective s.params .status :: rest) reads ctr) := by
    have hturn := engineTurn_of_decode
      (s := withHostSide s (rdcDirective s.params .status :: rest) reads ctr) hb hd
    exact (step_of_engine rfl).trans (hturn.trans (exec_withHostSide hu _ _ _))
  obtain ⟨hparams, -⟩ := exec_sameControl hu
  obtain ⟨-, -, hidle, -⟩ := exec_ended hu
  have hpoll := step_poll (s := withHostSide u (rdcDirective s.params .status :: rest) reads ctr) (rest := rest)
    (by rw [withHostSide_params, hparams]; rfl)
  rw [withHostSide_status, if_neg (Bool.eq_false_iff.1 hidle)] at hpoll
  exact (run_succ 1 _ _ hengine).trans (run_succ 0 _ _ hpoll)

/-- The WAIT of R104 on a command in flight leaves what the command leaves, whatever the number of polls. -/
theorem run_waitDirective {i : Instr} {u : State} (polls : Nat) (hb : s.status.busy = true)
    (hd : decode s.cmd = .ok i) (hev : s.events = waitDirective s.params polls ++ rest) (hu : exec i s = .next u) :
    Sys2Proof.core.run (polls + 2) s = .next (withHostSide u rest
      (.word u.status.word :: (List.replicate polls (.word s.status.word) ++ s.reads)) (s.freeCtr + polls)) := by
  have hpolls := run_polls (.engine :: rdcDirective s.params .status :: rest) polls s hb
    (by simpa [waitDirective] using hev)
  exact (run_add 2 polls s _ hpolls).trans (run_completion hb hd hu _ _)

/-- The write of a command's word to CMD, idle, issues it. -/
theorem step_commandWrite (w : Word) (hb : s.status.busy = false)
    (hev : s.events = wrcDirective s.params .cmd w :: rest) :
    step s = .next (withHostSide (s.issue w) rest s.reads s.freeCtr) :=
  (step_of_access hev).trans ((hostAccess_write (s := afterAccesses s rest []) (data := .word w)
    (busOffset_inside s.params CReg.cmd.offset .word (show 0x010 + 4 ≤ 0x2000 by decide))).trans
      (congrArg Host.Outcome.next (hostWrite_cmd_idle w hb)))

end Line

/-- Settles O10: the CMD write issues the word, `run_waitDirective` is the rest of the line, and the command does not
see the host's side, by `exec_withHostSide`. -/
theorem commandLineRuns : Obligations.CommandLineRuns := by
  unfold Obligations.CommandLineRuns
  intro s i polls rest hi hb hev
  obtain ⟨u, hu⟩ := exists_exec i (s.issue (encode i))
  obtain ⟨-, hctrl, hcmd, hrounds, -⟩ := exec_sameControl hu
  have hissue := step_commandWrite (encode i) hb hev
  have hwait := run_waitDirective
    (s := withHostSide (s.issue (encode i)) (waitDirective s.params polls ++ rest) s.reads s.freeCtr) polls
    rfl (decode_encode hi) rfl (exec_withHostSide hu _ _ _)
  exact ⟨_, u, hu, (run_succ (polls + 2) _ _ hissue).trans hwait, fun x _ => by cases x <;> rfl, rfl, hctrl, hcmd,
    hrounds, ⟨rfl, rfl⟩, rfl, rfl⟩

end Sys2Proof.Proofs
end

section
/-! SUPPORT. The host port: bad accesses, word accesses to the windows, STATUS, and that reads have no side effect. -/

namespace Sys2Proof.Proofs

open Sys2Proof.Machine Sys2Proof.Claims

/-! ### Bad accesses (R64) -/

/-- Settles O42: neither rule asks for BUSY. -/
theorem badAccesses : Obligations.BadAccesses := by
  unfold Obligations.BadAccesses
  exact fun s off =>
    ⟨fun hlow => ⟨readValue_byte_low s off hlow, fun b => hostWrite_byte_low s off b hlow⟩,
      fun h4 => ⟨readValue_word_unaligned s off h4, fun v => hostWrite_word_unaligned s off v h4⟩⟩

/-! ### A word access to a window (R62, R63) -/

section WordAccess

variable {s : State} {off : Nat}

theorem readValue_byte_idle (hb : s.status.busy = false) (hoff : Config.windowSize ≤ off) :
    s.readValue off .byte = .byte (s.windowByte off) := by
  rw [readValue_byte s off hoff, byteSeen_idle s off 0 hb]

theorem readValue_word_idle (hb : s.status.busy = false) (hoff : Config.windowSize ≤ off) (h4 : off % 4 = 0) :
    s.readValue off .word = .word (wordOfBytes (s.windowByte off) (s.windowByte (off + 1)) (s.windowByte (off + 2))
      (s.windowByte (off + 3))) := by
  rw [readValue_word s off hoff h4]
  simp only [byteSeen_idle s _ _ hb]

/-- The four bytes of a general register's window, written together, are written one after the other. -/
theorem hostWrite_word_general {x : GReg} {k : Nat} (v : Word) (hb : s.status.busy = false)
    (hk : k + 4 ≤ Config.windowSize) (h4 : ((BigReg.gen x).windowStart + k) % 4 = 0) :
    s.hostWrite ((BigReg.gen x).windowStart + k) (.word v) =
      (((s.putByte x k (v.extractLsb' 24 8)).putByte x (k + 1) (v.extractLsb' 16 8)).putByte x (k + 2)
        (v.extractLsb' 8 8)).putByte x (k + 3) (v.extractLsb' 0 8) := by
  have hlow := (windowStart_bounds (.gen x)).1
  rw [hostWrite_word s _ v (by omega) h4, writeWindow_gen_idle s x k _ (by omega) hb]
  rfl

theorem hostWrite_bytes_general {x : GReg} {k : Nat} (b3 b2 b1 b0 : Byte) (hb : s.status.busy = false)
    (hk : k + 4 ≤ Config.windowSize) :
    (((s.hostWrite ((BigReg.gen x).windowStart + k) (.byte b3)).hostWrite ((BigReg.gen x).windowStart + k + 1)
        (.byte b2)).hostWrite ((BigReg.gen x).windowStart + k + 2) (.byte b1)).hostWrite
          ((BigReg.gen x).windowStart + k + 3) (.byte b0) =
      (((s.putByte x k b3).putByte x (k + 1) b2).putByte x (k + 2) b1).putByte x (k + 3) b0 := by
  have put {u : State} (b : Byte) (j : Nat) (hj : k + j < Config.windowSize) (hu : u.status.busy = false) :
      u.hostWrite ((BigReg.gen x).windowStart + k + j) (.byte b) = u.putByte x (k + j) b :=
    Nat.add_assoc _ k j ▸ hostWrite_general_idle x b hj hu
  rw [hostWrite_general_idle x b3 (by omega) hb, put b2 1 (by omega) (by simpa using hb),
    put b1 2 (by omega) (by simpa using hb), put b0 3 (by omega) (by simpa using hb)]

end WordAccess

/-- Settles O41: idle, each byte read is `windowByte`, and each byte written to a general window is `putByte`; the
signed windows ignore both kinds of write. -/
theorem wordAccessIsFourBytes : Obligations.WordAccessIsFourBytes := by
  unfold Obligations.WordAccessIsFourBytes
  refine fun s off hb hlow hhigh h4 => ⟨fun b3 b2 b1 b0 h3 h2 h1 h0 => ?_, fun v => ?_⟩
  · have byte_eq {off : Nat} {b : Byte} (hoff : 0x400 ≤ off) (h : s.readValue off .byte = .byte b) :
        s.windowByte off = b :=
      BusData.byte.inj ((readValue_byte_idle hb hoff).symm.trans h)
    rw [readValue_word_idle hb hlow h4, byte_eq hlow h3, byte_eq (by omega) h2, byte_eq (by omega) h1,
      byte_eq (by omega) h0]
    rfl
  · obtain hgen | hsigned := Nat.lt_or_ge off 0x1800
    · obtain ⟨y, k, hk, rfl⟩ := exists_window off hlow hhigh h4
      obtain ⟨x, hx⟩ := (windowAt_gen_iff _).2 hgen
      obtain rfl : y = .gen x := (windowAt_windowStart y k (by omega)).symm.trans hx
      rw [hostWrite_word_general v hb hk h4, hostWrite_bytes_general _ _ _ _ hb hk]
    · rw [hostWrite_signed s off _ hsigned, hostWrite_signed s off _ hsigned, hostWrite_signed s _ _ (by omega),
        hostWrite_signed s _ _ (by omega), hostWrite_signed s _ _ (by omega)]

/-! ### Reads have no side effect (R70) -/

/-- Idle, a read depends on nothing of the host's side, and on no free value. -/
theorem readValue_withHostSide {s : State} (hb : s.status.busy = false) (events : List Event) (reads : List BusData)
    (ctr off : Nat) (size : Size) :
    (withHostSide s events reads ctr).readValue off size = s.readValue off size := by
  have hb' : (withHostSide s events reads ctr).status.busy = false := hb
  have hbyte (off i : Nat) : (withHostSide s events reads ctr).byteSeen off i = s.byteSeen off i := by
    rw [byteSeen_idle s off i hb, byteSeen_idle _ off i hb']
    exact windowByte_congr s _ off rfl (by cases windowAt off with | gen x => exact g_withHostSide x | _ => rfl)
  have hcreg (r : CReg) : (withHostSide s events reads ctr).cregWord r = s.cregWord r := by
    cases r with
    | rngcnt => rw [State.cregWord, State.cregWord, drawsSoFar_idle hb, drawsSoFar_idle hb']; rfl
    | _ => rfl
  cases size with
  | byte => simp only [State.readValue, hbyte]
  | word => simp only [State.readValue, hbyte, hcreg]

theorem readValue_rngcnt_idle {s : State} (hb : s.status.busy = false) : s.readValue 0x018 .word = .word s.rngcnt := by
  have hread : s.readValue 0x018 .word = .word (s.rngcnt + BitVec.ofNat 32 s.drawsSoFar) := readValue_creg s .rngcnt
  rw [hread, drawsSoFar_idle hb, BitVec.add_zero]

/-- Settles O50: a read changes the host's side only, which an idle read does not see. -/
theorem readsHaveNoSideEffect : Obligations.ReadsHaveNoSideEffect := by
  unfold Obligations.ReadsHaveNoSideEffect
  exact fun s off size => ⟨_, rfl, fun x _ => by cases x <;> rfl, rfl, rfl, rfl, rfl, ⟨rfl, rfl⟩, rfl,
    fun hb => ⟨readValue_rngcnt_idle hb, readValue_withHostSide hb _ _ _⟩⟩

/-! ### STATUS (R33) -/

/-- STATUS by its fields: the reserved bits 31:20, ERR in 19:16, the reserved bits 15:9, the flags in 8:0. -/
theorem getLsbD_statusWord (f : Status) (k : Nat) : f.word.getLsbD k =
    if k < 9 then [f.busy, f.done, f.errs, f.busyViol, f.z, f.eq, f.lt, f.gt, f.prime].getD k false
    else if k < 16 then false
    else if k < 20 then (errField f.err).getLsbD (k - 16)
    else false := by
  simp only [Status.word, BitVec.getLsbD_append]
  match k with
  | 0 | 1 | 2 | 3 | 4 | 5 | 6 | 7 | 8 => simp
  | k + 9 =>
    have hreserved : k < 7 ↔ k + 9 < 16 := by omega
    have herr : k - 7 < 4 ↔ k + 9 < 20 := by omega
    simp [hreserved, herr]

theorem extractLsb'_statusWord_err (f : Status) : f.word.extractLsb' 16 4 = errField f.err := by
  apply BitVec.eq_of_getLsbD_eq
  intro k hk
  rw [BitVec.getLsbD_extractLsb', getLsbD_statusWord, if_neg (by omega), if_neg (by omega), if_pos (by omega),
    Nat.add_sub_cancel_left, decide_eq_true hk, Bool.true_and]

/-- Bits 15:9 and 31:20 are reserved. -/
theorem extractLsb'_statusWord_reserved {lo len : Nat} (h : (9 ≤ lo ∧ lo + len ≤ 16) ∨ 20 ≤ lo) (f : Status) :
    f.word.extractLsb' lo len = 0 := by
  apply BitVec.eq_of_getLsbD_eq
  intro k hk
  rw [BitVec.getLsbD_extractLsb', getLsbD_statusWord, if_neg (by omega)]
  obtain h | h := h
  · simp [show lo + k < 16 by omega]
  · simp [show ¬ lo + k < 16 by omega, show ¬ lo + k < 20 by omega]

/-- Settles O46: the layout by `getLsbD_statusWord`, the write by `hostWrite_status`. -/
theorem statusRegister : Obligations.StatusRegister := by
  unfold Obligations.StatusRegister
  refine ⟨fun s => ?_, fun s v => ⟨_, hostWrite_status s v, ?_⟩⟩
  · have bit := getLsbD_statusWord s.status
    exact ⟨_, readValue_creg s .status, bit 0, bit 1, bit 2, bit 3, bit 4, bit 5, bit 6, bit 7, bit 8,
      extractLsb'_statusWord_reserved (by decide) _, extractLsb'_statusWord_err _,
      extractLsb'_statusWord_reserved (by decide) _⟩
  · exact ⟨rfl, rfl, rfl, rfl, rfl, ⟨rfl, rfl, rfl, rfl, rfl⟩, fun x _ => by cases x <;> rfl, rfl, rfl, rfl, rfl, rfl⟩

end Sys2Proof.Proofs
end

section
/-! SUPPORT. Reset: the state right after it, and the reset event from any state. -/

namespace Sys2Proof.Proofs

open Sys2Proof.Machine Sys2Proof.Claims

theorem configWord_default : configWord Params.default = 0x00360020 := by decide

theorem statusWord_reset : Status.reset.word = 0 := by decide

theorem step_reset : step State.reset = .next State.reset :=
  (step_of_nil State.reset rfl).trans (engineTurn_idle rfl)

/-- Settles O52: each control register by `readValue_creg`; the idle block with nothing scheduled stays as it is. -/
theorem resetStateValues : Obligations.ResetStateValues := by
  unfold Obligations.ResetStateValues
  exact ⟨readValue_creg _ .id, configWord_default ▸ readValue_creg State.reset .config,
    word_reset ▸ readValue_creg State.reset .ctrl, statusWord_reset ▸ readValue_creg State.reset .status,
    readValue_creg _ .cmd, readValue_creg _ .rounds, readValue_rngcnt_idle rfl, rfl, step_reset⟩

/-- The big registers after a reset are a function of the parameters and the count of free values. -/
theorem resetEvent_big_congr {s s' : State} (hp : s'.params = s.params) (hctr : s'.freeCtr = s.freeCtr) (x : BigReg) :
    s'.resetEvent.big x = s.resetEvent.big x := by
  rcases x with x | _ | _
  · cases x <;> simp [State.big, hp, hctr]
  · simp [State.big, hp, hctr]
  · simp [State.big, hp, hctr]

/-- Settles O53: the values are those of `resetEvent`, which fit by `resetEvent_registersFit`; a command in flight would
have made `drawsInFlight` draws, of which `drawsSoFar` stay made. -/
theorem resetEvent : Obligations.ResetEvent := by
  unfold Obligations.ResetEvent
  refine ⟨fun s rest hev => ?_, fun s s' hp hctr x => resetEvent_big_congr hp hctr x⟩
  have hstep : step s = .next (advance s).resetEvent := step_of_nextIsReset (.inl ⟨rest, hev⟩)
  have hfit := resetEvent_registersFit (advance s)
  refine ⟨_, hstep, rfl, rfl, rfl, rfl, rfl, rfl, statusWord_reset, word_reset, rfl, rfl, hfit.general, hfit.sx,
    hfit.sy, fun hb => ?_, fun hb => ?_⟩
  · rw [State.resetEvent_rngPos, drawsSoFar_idle (s := advance s) hb]
    rfl
  · obtain ⟨u, hu⟩ := exists_engineTurn (advance s)
    obtain ⟨hpos, -⟩ := engineTurn_drawsInFlight (s := advance s) hb hu
    refine ⟨(advance s).drawsInFlight, u, advance_of_cons hev ▸ hu, hpos, Nat.le_add_right _ _, ?_⟩
    exact Nat.add_le_add_left (drawsSoFar_le (advance s)) s.rngPos

end Sys2Proof.Proofs
end

section
/-! SUPPORT. What a command reads (R22), as a statement about two states. -/

namespace Sys2Proof.Proofs

open Sys2Proof.Machine Sys2Proof.Claims

/-- Settles O35: `exec_congr` gives the two ends of the command, with the same error or the same written values. -/
theorem commandsReadOnlyListedRegisters : Obligations.CommandsReadOnlyListedRegisters := by
  unfold Obligations.CommandsReadOnlyListedRegisters
  intro i s s' t t' hp hregs htest h h'
  obtain ⟨r, r', hr, hr', hend⟩ := exec_congr ⟨hp, hregs, htest⟩
  obtain rfl := Host.Outcome.next.inj (hr.symm.trans h)
  obtain rfl := Host.Outcome.next.inj (hr'.symm.trans h')
  cases hend with
  | error e => exact ⟨rfl, fun herr => by cases herr⟩
  | ok hbig hz hcmp htest => exact ⟨rfl, fun _ => ⟨by simpa [conclude_ok] using hbig, hz, hcmp, htest⟩⟩

end Sys2Proof.Proofs
end

section
/-! SUPPORT. What MONTMUL and MODEXP are used for: Montgomery form (R153) and the RSA round trip (R159). -/

namespace Sys2Proof.Proofs

open Sys2Proof.Machine Sys2Proof.Claims

/-! ### Montgomery form -/

/-- The residue that gives `a * b` when multiplied by `2^w` is the value of MONTMUL. -/
theorem montMul_eq_of_modEq {w a b n v : Nat} (hn : n % 2 = 1) (hv : v < n) (h : 2 ^ w * v ≡ a * b [MOD n]) :
    montMul w a b n = v :=
  (mul_mod_eq_iff_of_coprime (two_pow_coprime_of_odd w hn) (montMul_lt w a b n (by omega)) hv h).1
    (two_pow_mul_montMul_modEq w a b hn)

/-- Settles O24: `2^W * (x * 2^W)` is `x * 2^(2W)`, so by `montMul_eq_of_modEq` the first conversion multiplies by
`2^W`; the second undoes it by `two_pow_mul_montMul_modEq`. -/
theorem montgomeryForm : Obligations.MontgomeryForm := by
  unfold Obligations.MontgomeryForm
  intro s x hodd hx hA
  have hN : 0 < s.regN := by omega
  refine ⟨fun hB => ?_, fun hone hB => ?_⟩
  · have hlt : s.regB < s.regN := hB ▸ Nat.mod_lt _ hN
    have hval : montMul s.params.width s.regA s.regB s.regN = x * 2 ^ s.params.width % s.regN := by
      refine montMul_eq_of_modEq hodd (Nat.mod_lt _ hN) ?_
      calc 2 ^ s.params.width * (x * 2 ^ s.params.width % s.regN)
          ≡ 2 ^ s.params.width * (x * 2 ^ s.params.width) [MOD s.regN] := (Nat.mod_modEq _ _).mul_left _
        _ = x * 2 ^ (2 * s.params.width) := by ring
        _ ≡ x * (2 ^ (2 * s.params.width) % s.regN) [MOD s.regN] := (Nat.mod_modEq _ _).symm.mul_left _
        _ = s.regA * s.regB := by rw [hA, hB]
    exact hval ▸ (montmul_of_odd hodd).1 (by omega)
  · refine ⟨_, (montmul_of_odd hodd).1 (by omega), ?_⟩
    have hmul : 2 ^ s.params.width * montMul s.params.width s.regA s.regB s.regN % s.regN = s.regA * s.regB % s.regN :=
      two_pow_mul_montMul_modEq _ _ _ hodd
    rw [Nat.mul_comm, hmul, hA, hB, Nat.mul_one, Nat.mod_eq_of_lt hx]

/-! ### The RSA round trip -/

/-- MODEXP by an exponent in its type, modulo a positive N. -/
theorem modexp_givesResult {s : State} (hs : s.Inv) (hN : s.regN ≠ 0) :
    GivesResult .modexp s (s.regA ^ s.regB % s.regN) :=
  (result_or_error_of_conclude rfl rfl (by simp) (exec_modexp hs)).1 hN

/-- Fermat: modulo a prime, a positive exponent congruent to 1 modulo `p - 1` leaves every base. -/
theorem pow_modEq_self_of_prime {p k : Nat} (hp : p.Prime) (hk : 1 ≤ k) (h : k ≡ 1 [MOD p - 1]) (m : Nat) :
    m ^ k ≡ m [MOD p] := by
  obtain ⟨j, hj⟩ := (Nat.modEq_iff_dvd' hk).1 h.symm
  obtain rfl : k = 1 + (p - 1) * j := by omega
  have := Fact.mk hp
  rw [← ZMod.natCast_eq_natCast_iff]
  push_cast
  by_cases hm : (m : ZMod p) = 0
  · simp [hm]
  · rw [pow_add, pow_one, pow_mul, ZMod.pow_card_sub_one_eq_one hm, one_pow, mul_one]

/-- A product of two distinct primes: an exponent congruent to 1 modulo `(p - 1) * (q - 1)` leaves every residue. -/
theorem pow_mod_eq_self_of_primes {p q k m : Nat} (hp : p.Prime) (hq : q.Prime) (hne : p ≠ q)
    (hk : k ≡ 1 [MOD (p - 1) * (q - 1)]) (hm : m < p * q) : m ^ k % (p * q) = m := by
  have hpos : 1 ≤ k := by
    by_contra h0
    obtain rfl : k = 0 := by omega
    have hone : (p - 1) * (q - 1) = 1 := Nat.dvd_one.1 (Nat.modEq_zero_iff_dvd.1 hk.symm)
    obtain ⟨hp1, hq1⟩ := mul_eq_one.1 hone
    exact hne (by omega)
  have hmod : m ^ k ≡ m [MOD p * q] := (Nat.modEq_and_modEq_iff_modEq_mul ((Nat.coprime_primes hp hq).2 hne)).1
    ⟨pow_modEq_self_of_prime hp hpos (hk.of_mul_right _) m, pow_modEq_self_of_prime hq hpos (hk.of_mul_left _) m⟩
  exact Eq.trans hmod (Nat.mod_eq_of_lt hm)

/-- Settles O25: the two exponents together are one exponent that leaves every residue. -/
theorem rsaRoundTrip : Obligations.RsaRoundTrip := by
  unfold Obligations.RsaRoundTrip
  intro s s' p q m hs hs' hp hq hne hN hN' hinv hm hA hA'
  have hpq : p * q ≠ 0 := Nat.mul_ne_zero hp.ne_zero hq.ne_zero
  have hback : s'.regA ^ s'.regB % s'.regN = m := by
    rw [hA', hN', ← Nat.pow_mod, ← pow_mul]
    exact pow_mod_eq_self_of_primes hp hq hne hinv hm
  refine ⟨?_, ?_⟩
  · rw [← hA, ← hN]
    exact modexp_givesResult hs (hN ▸ hpq)
  · have hresult := modexp_givesResult hs' (hN' ▸ hpq)
    rwa [hback] at hresult

end Sys2Proof.Proofs
end

section
/-! SUPPORT. PRIMETEST of a prime (R192): every witness passes. -/

namespace Sys2Proof.Proofs

open Sys2Proof.Machine Sys2Proof.Claims

/-- In a field a root of 1 whose order divides `2^r` is 1, or squaring it repeatedly meets -1. -/
theorem eq_one_or_exists_pow_eq_neg_one {K : Type} [Field K] (x : K) :
    ∀ r : Nat, x ^ 2 ^ r = 1 → x = 1 ∨ ∃ j, j < r ∧ x ^ 2 ^ j = -1
  | 0, h => .inl (by simpa using h)
  | r + 1, h => by
    rw [pow_succ, pow_mul, sq_eq_one_iff] at h
    obtain h | h := h
    · exact (eq_one_or_exists_pow_eq_neg_one x r h).imp_right fun ⟨j, hj, hx⟩ => ⟨j, by omega, hx⟩
    · exact .inr ⟨r, by omega, h⟩

/-- The cast of a number to the residues of `n` is -1 exactly if its remainder is `n - 1`. -/
theorem mod_eq_sub_one_of_cast {n a : Nat} (hn : 2 ≤ n) (h : (a : ZMod n) = -1) : a % n = n - 1 := by
  have hcast : (a : ZMod n) = ((n - 1 : Nat) : ZMod n) := by
    rw [h, Nat.cast_sub (by omega)]
    simp
  have hmod : a % n = (n - 1) % n := (ZMod.natCast_eq_natCast_iff' _ _ _).1 hcast
  rw [hmod, Nat.mod_eq_of_lt (by omega)]

theorem mod_eq_one_of_cast {n a : Nat} (hn : 2 ≤ n) (h : (a : ZMod n) = 1) : a % n = 1 := by
  have hmod : a % n = 1 % n := (ZMod.natCast_eq_natCast_iff' a 1 n).1 (by simpa using h)
  rw [hmod, Nat.mod_eq_of_lt (by omega)]

/-- The round's witness by its name. -/
theorem roundPasses_iff (s : State) (d r k : Nat) : RoundPasses s d r k ↔
    witnessOf s.regN (s.rngAt (s.rngPos + k)) ^ d % s.regN = 1 ∨
      ∃ j, j < r ∧ witnessOf s.regN (s.rngAt (s.rngPos + k)) ^ (d * 2 ^ j) % s.regN = s.regN - 1 :=
  Iff.rfl

/-- A round of stage (b) passes for a prime: its witness is no multiple of it, so by Fermat `(a^d)^(2^r)` is 1. -/
theorem roundPasses_of_prime {s : State} {d r : Nat} (hp : s.regN.Prime) (hN : 4 ≤ s.regN)
    (hsplit : s.regN - 1 = d * 2 ^ r) (k : Nat) : RoundPasses s d r k := by
  have hlow := two_le_witnessOf s.regN (s.rngAt (s.rngPos + k))
  have hhigh := witnessOf_le hN (s.rngAt (s.rngPos + k))
  rw [roundPasses_iff]
  generalize witnessOf s.regN (s.rngAt (s.rngPos + k)) = a at hlow hhigh ⊢
  have := Fact.mk hp
  have hne : (a : ZMod s.regN) ≠ 0 := by
    rw [Ne, ZMod.natCast_eq_zero_iff]
    exact Nat.not_dvd_of_pos_of_lt (by omega) (by omega)
  have hfermat : ((a : ZMod s.regN) ^ d) ^ 2 ^ r = 1 := by
    rw [← pow_mul, ← hsplit, ZMod.pow_card_sub_one_eq_one hne]
  obtain h | ⟨j, hj, h⟩ := eq_one_or_exists_pow_eq_neg_one _ r hfermat
  · exact .inl (mod_eq_one_of_cast hp.two_le (by exact_mod_cast h))
  · refine .inr ⟨j, hj, mod_eq_sub_one_of_cast hp.two_le ?_⟩
    rw [Nat.cast_pow, pow_mul, h]

/-- A prime that some table prime divides is that table prime. -/
theorem mem_or_survives_of_prime {s : State} (hl : s.params.Legal) (hp : s.regN.Prime) :
    s.regN ∈ s.params.smallPrimes ∨ Survives s := by
  by_cases hdiv : ∃ q ∈ s.params.smallPrimes, s.regN % q = 0
  · obtain ⟨q, hq, hmod⟩ := hdiv
    obtain rfl := (Nat.prime_dvd_prime_iff_eq (hl.primes_prime q hq) hp).1 (Nat.dvd_of_mod_eq_zero hmod)
    exact .inl hq
  · exact .inr ⟨hp.two_le, fun q hq hmod => hdiv ⟨q, hq, hmod⟩⟩

/-- Settles O33: a prime is in the table, or it survives stage (a) and every round passes. -/
theorem primesPass : Obligations.PrimesPass := by
  unfold Obligations.PrimesPass
  intro s hs hp
  obtain hmem | hsurv := mem_or_survives_of_prime hs.legal hp
  · exact ⟨0, testEnds_of_primeTest (primeTest_of_mem hs.legal hmem)⟩
  · obtain ⟨hodd, hfive⟩ := odd_and_five_le_of_survives hs.legal hsurv
    obtain ⟨hd, hsplit⟩ := splitPow2_spec (m := s.regN - 1) (by omega)
    exact ⟨_, testEnds_of_primeTest (primeTest_of_all_pass hs hsurv hd hsplit fun k _ =>
      roundPasses_of_prime hp (by omega) hsplit k)⟩

end Sys2Proof.Proofs
end
